-- ==== Sys2Proof/Word.lean ====
section
/-! DEFINITION. The word types of the C3120 manual: bytes, bus addresses, beats of data, byte enables and the
wrapping counts. Everything the manual treats as bits is one of these; everything it counts, ranges or orders is a
`Nat`, an `Int` or an inductive type. -/

namespace Sys2Proof

/-- One byte of a record, a table or a view. -/
abbrev Byte := BitVec 8

/-- A 32-bit bus byte address (00_scope.md, Conventions). Sums wrap modulo 2^32 (R1). -/
abbrev Addr := BitVec 32

/-- The eight bytes of one beat; byte i lies in bits 8i to 8i+7 (R172: lowest-addressed byte least significant). -/
abbrev Data := BitVec 64

/-- The eight byte enables of one write beat, bit i for byte i. -/
abbrev Enables := BitVec 8

/-- A count that wraps at 2^32: the timebase (R38) and the generation counts (R31). -/
abbrev Count32 := BitVec 32

/-- A set of sixteen, bit n for member n: event sets (R34), initiator masks (R8), handset sets (R17), the live set (R14). -/
abbrev Set16 := BitVec 16

end Sys2Proof
end

