-- ==== Sys2Proof/Syntax.lean ====
section
/-! DEFINITION. The commands of the block: one constructor of `Instr` for each row of spec/opcode_table.json, with
the operands the row's rules give it. A command is one indivisible step of the part (spec/95_what_each_step_holds.md):
something that happens at a port, a pin or a timer, or the hand-over of an assembled command record or packet. Field
widths are those of Record Formats (R175, R176), so that every out-of-range value can be written. -/

namespace Sys2Proof

/-- The direction of a request (section 1.1). -/
inductive Dir
  | read
  | write
  deriving DecidableEq, Repr

/-- The fields of a U-port request that the part acts on (section 1.1); byte enables travel with the data beats. -/
structure BusRequest where
  /-- Start address, a multiple of 8. -/
  addr : Addr
  dir : Dir
  /-- Beat count, 1 to 16. -/
  beats : Nat
  /-- Initiator tag, 0 to 15. -/
  tag : Fin 16
  deriving DecidableEq, Repr

/-- What the Command Intake knows of an assembled command beside its code and arguments (R21, R26): the host tag of
byte 1, the index of the winning window entry and the slot offset. -/
structure CmdSlot where
  hostTag : Byte
  entry : Fin 16
  offset : Addr
  deriving DecidableEq, Repr

/-- The argument bytes of SONG_LOAD (R175). -/
structure SongLoadArgs where
  source : Byte
  partMap : Byte
  duration : BitVec 32
  song : BitVec 24
  difficulty : Byte
  key : Byte
  floorNote : Byte
  ceilNote : Byte
  deriving DecidableEq, Repr

/-- The argument bytes of QUEUE_INSERT (R175). -/
structure InsertArgs where
  song : BitVec 24
  position : Byte
  duration : BitVec 16
  difficulty : Byte
  key : Byte
  duet : Byte
  pin : Byte
  deriving DecidableEq, Repr

/-- What every check-valid packet carries (R134, R176): the handset byte, already known to be 0 to 15, the sequence
and the flags field. -/
structure PacketHead where
  handset : Fin 16
  sequence : Byte
  flags : Byte
  deriving DecidableEq, Repr

/-- The fields that only a REQUEST packet uses (R136, R176). -/
structure RequestFields where
  song : BitVec 24
  difficulty : Byte
  key : Byte
  duration : BitVec 16
  duet : Byte
  deriving DecidableEq, Repr

/-- The commands, one constructor for each row of spec/opcode_table.json, in the table's order. -/
inductive Instr
  /-- REQUEST_ACCEPT: a request is presented at the U port (R1). -/
  | requestAccept (r : BusRequest)
  /-- WRITE_BEAT_DATA_TAKEN: the data and byte enables of the next write beat are taken (R1). -/
  | writeBeatDataTaken (data : Data) (enables : Enables)
  /-- RUN_FORWARD: the next run leaves at the D port (R2). -/
  | runForward
  /-- RUN_COMPLETION: the memory completes the n-th outstanding forwarded run, with OKAY or FAULT and its data (R3). -/
  | runCompletion (n : Nat) (fault : Bool) (data : List Data)
  /-- COMPLETION_LEAVE: the oldest listed request completes at the U port (R2). -/
  | completionLeave
  /-- COLD_RESET: RESET_N goes low (R19). -/
  | coldReset
  /-- COLD_RESET_RELEASE: RESET_N rises with the straps at `sel` (R19). -/
  | coldResetRelease (sel : BitVec 2)
  /-- BUS_RESET: BUS_RESET_N goes low (R20). -/
  | busReset
  /-- BUS_RESET_RELEASE: BUS_RESET_N rises (R20). -/
  | busResetRelease
  /-- UNKNOWN: an assembled command whose nonzero code names no command (R25). -/
  | unknown (slot : CmdSlot) (code : Byte)
  /-- ACK_EVENTS (R28). -/
  | ackEvents (slot : CmdSlot) (mask : Set16)
  /-- SONG_LOAD (R40). -/
  | songLoad (slot : CmdSlot) (args : SongLoadArgs)
  /-- SONG_START (R42). -/
  | songStart (slot : CmdSlot)
  /-- SONG_SEEK to a position in ms with a resume line (R51). -/
  | songSeek (slot : CmdSlot) (position : BitVec 32) (line : BitVec 16)
  /-- SONG_STOP (R53). -/
  | songStop (slot : CmdSlot)
  /-- SCORE_CLEAR_BOARD (R127). -/
  | scoreClearBoard (slot : CmdSlot)
  /-- QUEUE_INSERT (R155). -/
  | queueInsert (slot : CmdSlot) (args : InsertArgs)
  /-- QUEUE_REMOVE (R156). -/
  | queueRemove (slot : CmdSlot) (tag : Byte)
  /-- QUEUE_MOVE (R157). -/
  | queueMove (slot : CmdSlot) (tag : Byte) (position : Byte)
  /-- QUEUE_CONFIRM (R158). -/
  | queueConfirm (slot : CmdSlot) (tag : Byte)
  /-- QUEUE_PIN (R159). -/
  | queuePin (slot : CmdSlot) (tag : Byte) (setting : Byte)
  /-- HANDSET_RELEASE (R141). -/
  | handsetRelease (slot : CmdSlot) (handset : Byte)
  /-- ROOM_OPEN (R169). -/
  | roomOpen (slot : CmdSlot) (seconds : BitVec 32)
  /-- ROOM_EXTEND (R170). -/
  | roomExtend (slot : CmdSlot) (seconds : BitVec 32)
  /-- ROOM_CLOSE (R171). -/
  | roomClose (slot : CmdSlot)
  /-- STALL_TIMER_EXPIRY (R50). -/
  | stallTimerExpiry
  /-- FRAME_COMPLETE: the continuous capture beat that brings the channel's frame to 512 samples, with its data (R98). -/
  | frameComplete (channel : Fin 4) (data : Data)
  /-- ESTIMATE_POSTING of a channel's estimate in flight (R108, R116). -/
  | estimatePosting (channel : Fin 4)
  /-- RESULT_POSTING_COMPLETE (R125). -/
  | resultPostingComplete
  /-- REQUEST packet (R144). -/
  | request (head : PacketHead) (fields : RequestFields)
  /-- CANCEL packet (R146). -/
  | cancel (head : PacketHead) (song : BitVec 24)
  /-- VOTE_SKIP packet (R147). -/
  | voteSkip (head : PacketHead) (song : BitVec 24)
  /-- QUERY packet (R149). -/
  | query (head : PacketHead)
  /-- PACKET_UNKNOWN_KIND: a check-valid packet of kind 5 to 255 (R136). -/
  | packetUnknownKind (head : PacketHead) (kind : Byte)
  /-- PRESENCE_EXPIRY of a handset (R138). -/
  | presenceExpiry (handset : Fin 16)
  /-- QUIET_INTERVAL_EXPIRY of a handset (R140). -/
  | quietIntervalExpiry (handset : Fin 16)
  /-- ROOM_SECOND_EXPIRY (R168). -/
  | roomSecondExpiry
  deriving DecidableEq, Repr

end Sys2Proof
end

