-- ==== Sys2Proof/Decode.lean ====
section
/-! DEFINITION. The decoding of a command from the bits of spec/opcode_table.json. Not one row of the table gives
bits ("fields" is empty and there is no "fixed" in all 37 rows): the commands are things that happen at ports, pins
and timers. The layouts that the part itself decodes, command records (R175) and packets (R176), are read in
Machine/Operands.lean from the beats that carry them. -/

namespace Sys2Proof

/-- The command that a word of the opcode table spells: none, since no row of the table gives bits. -/
def decodeTableWord (nbits w : Nat) : Option Instr :=
  match nbits, w with
  | _, _ => none

end Sys2Proof
end

