-- ==== Sys2Proof/Config.lean ====
section
/-! DEFINITION. What the manual leaves to the circuit and the model leaves free, and the time bounds the manual
states for the two operations that take time. -/

namespace Sys2Proof

/-- FREE VALUE. Which of several expiries and completions that fall due at one timebase tick is taken next when no
command is waiting. The manual says that such events "may come together" and that the outcome goes by which is
taken first (R49, R50, R138, R140, R168), and gives no order. The n-th choice among k is `n`-th value modulo k.
(DESIGN CHOICE, notes/assumptions/3.md.) -/
opaque Config.expiryChoice : Nat → Nat

/-- R108: an estimate is posted at most 32 ms of timebase time after its frame completed. -/
def Config.estimateBound : Nat := 32

/-- R124: a posting completes at most 1 ms of timebase time after the end that began it. -/
def Config.postingBound : Nat := 1

end Sys2Proof
end

