-- ==== Sys2Proof/Machine/State.lean ====
section
/-! DEFINITION. The state of the C3120, block by block as section 3 of the scope chapter lists the blocks, and its
value right after reset. Plain data throughout. A timer that may be stopped is an `Option` of the timebase count it
was started at; a record the manual calls absent is an `Option` too. -/

namespace Sys2Proof.Machine

/-! ### Names the manual enumerates -/

/-- The sixteen events of R34, in the order of their numbers 0 to 15. -/
inductive Event
  | windowFault | guardBlock | commandRefused | songEnded | resultPosted | songStalled | clockDiscontinuity | lineLate
  | stripRejected | captureGap | requestWaiting | skipVotePassed | handsetChange | replyReady | queueChanged | roomTimeLow
  deriving DecidableEq, Repr

/-- The roles of R9, in the order of their codes 0 to 9. -/
inductive Role
  | none | scanout | strip | timeline | melody | capture | playback | receive | command | view
  deriving DecidableEq, Repr

/-- Why a beat was BLOCKed (R11). -/
inductive BlockCause
  | memoryTop | guard
  deriving DecidableEq, Repr

/-- The last-window-fault field (R18). -/
inductive WindowFault
  | none
  | entry (i : Fin 16)
  | locked
  deriving DecidableEq, Repr

/-- The outcomes of a command (section 2.2), in the order of their codes (R177). -/
inductive CmdOutcome
  | done | refusedState | refusedArgument | refusedFull | refusedNotFound | refusedDuplicate | refusedEmpty | incomplete | unknown
  deriving DecidableEq, Repr

/-- The song states of section 3.2, in the order of their codes (R177). -/
inductive SongState
  | idle | loaded | armed | running | stalled | ended
  deriving DecidableEq, Repr

/-- The outcomes of a song end (R39), in the order of their codes (R177). -/
inductive EndOutcome
  | none | complete | stopped | reset
  deriving DecidableEq, Repr

/-- Where a loaded song came from (R39). -/
inductive Source
  | queue | direct
  deriving DecidableEq, Repr

/-- A singing part; OFF only for a channel (R113). -/
inductive Part
  | off | a | b | both
  deriving DecidableEq, Repr

inductive Difficulty
  | easy | normal | hard
  deriving DecidableEq, Repr

/-- The state of a strip buffer (R57). -/
inductive StripState
  | free | loading | ready | shown
  deriving DecidableEq, Repr

/-- Why an estimate is unvoiced, or NONE for a voiced one (R107). -/
inductive Cause
  | none | quiet | noLag | noisy
  deriving DecidableEq, Repr

/-- The flag of a channel's final (R122). -/
inductive FinalFlag
  | none | noVoice | off
  deriving DecidableEq, Repr

/-- Who asked for a song (R150, R163). -/
inductive Requester
  | handset (h : Fin 16)
  | staff
  | none
  deriving DecidableEq, Repr

/-- The state of a queue entry (R150). -/
inductive EntryState
  | queued | standby | waiting
  deriving DecidableEq, Repr

/-- The state of a handset (R137). -/
inductive HandsetState
  | absent | active | held | barred
  deriving DecidableEq, Repr

/-- The outcome in a handset's reply, in the order of the codes of R178. -/
inductive ReplyOutcome
  | none | accepted | standby | waiting | merged | cancelled | voted | queryOk | denied | queueFull | roomClosed
  | barred | quotaFull | notFound | voteStale | fieldError
  deriving DecidableEq, Repr

/-- The room state (R167). -/
inductive RoomState
  | closed | opened | overtime
  deriving DecidableEq, Repr

/-! ### Stored bytes -/

/-- A byte store: (position, byte) pairs, positions strictly rising, no byte 0 listed (an unlisted position reads 0,
which is the cold-reset value of every byte store the manual gives: R19, R57, R62, R111; notes/assumptions/12.md). -/
abbrev Mem := List Host.Cell

/-! ### The bus path -/

/-- The window entry that won a beat, with the base and size code it had when the beat was matched (R1, R7). -/
structure Win where
  index : Fin 16
  /-- The base with its low 12 bits taken as 0. -/
  base : Addr
  sizeCode : Nat
  deriving DecidableEq, Repr

/-- The block that receives a snooped beat (R9), or the Anchor Shadow (R6). -/
inductive Dest
  | anchor
  | strip (w : Win)
  | timeline (w : Win)
  | melody (w : Win)
  | capture (channel : Fin 4) (w : Win)
  | playback (w : Win)
  | receive (w : Win)
  | command (w : Win)
  deriving DecidableEq, Repr

/-- A 24-bit colour (R174). -/
structure Colour where
  blue : Byte
  green : Byte
  red : Byte
  deriving DecidableEq, Repr

/-- What a TRANSFORMed beat does to one of its pixels, decided at acceptance (R77, R83, R89). -/
inductive Paint
  /-- The memory pixel is returned unchanged. -/
  | pass
  /-- The lyric blend with this foreground and coverage (R84). -/
  | blend (fg : Colour) (coverage : Nat)
  /-- An opaque guide-band pixel (R89). -/
  | solid (c : Colour)
  deriving DecidableEq, Repr

/-- The treatment of one beat (R10), with what was fixed at acceptance. -/
inductive Treatment
  | pass
  | snoop (d : Dest)
  | absorb
  /-- The eight bytes of the view snapshot (R30). -/
  | answer (data : Data)
  /-- The paints of the beat's two pixels (R74). -/
  | transform (first second : Paint)
  | block
  deriving DecidableEq, Repr

/-- One beat of an accepted request. -/
structure Beat where
  addr : Addr
  treatment : Treatment
  deriving DecidableEq, Repr

/-- Where a run stands between the D port and its completion (R2). -/
inductive RunStatus
  | waiting
  | forwarded
  /-- Completed with FAULT or OKAY, and the data the memory gave for a read (R3). -/
  | completed (fault : Bool) (data : List Data)
  deriving DecidableEq, Repr

/-- A run: `count` consecutive beats from beat `first` that all reach memory (R2). -/
structure Run where
  first : Nat
  count : Nat
  status : RunStatus
  deriving DecidableEq, Repr

/-- A request of the completion list (R2). -/
structure Listed where
  /-- The model's own: it ties a forwarded run to its request. -/
  serial : Nat
  request : BusRequest
  beats : List Beat
  runs : List Run
  /-- The data and byte enables taken so far for a write, in beat order. -/
  taken : List (Data × Enables)
  deriving DecidableEq, Repr

/-- A request that the part issued at the D port and the memory has not completed (R2). -/
structure DPortRun where
  /-- Serial of the listed request and index of the run; absent once a reset has abandoned the request (R19, R20). -/
  owner : Option (Nat × Nat)
  dir : Dir
  tag : Fin 16
  addr : Addr
  count : Nat
  /-- For a write, the data and byte enables of its beats. -/
  data : List (Data × Enables)
  deriving DecidableEq, Repr

/-- What leaves the U port for one request: its data beats, for a read, and its single completion (R3). -/
structure Completion where
  request : BusRequest
  data : List Data
  fault : Bool
  deriving DecidableEq, Repr

structure BusPath where
  /-- The completion list, oldest first, at most 8 (R2). -/
  list : List Listed
  /-- The request that the U port holds in the bus handshake (R2). -/
  held : Option BusRequest
  /-- The model's own: the serial of the next accepted request. -/
  nextSerial : Nat
  /-- Outstanding requests at the D port, in the order forwarded. -/
  dPort : List DPortRun
  /-- The completion that left the U port last; the model's picture of the port's output. -/
  uPort : Option Completion
  deriving DecidableEq, Repr

/-- The last-blocked record (R11). -/
structure BlockedRecord where
  valid : Bool
  addr : Addr
  tag : Fin 16
  dir : Dir
  cause : BlockCause
  deriving DecidableEq, Repr

/-- The Anchor Shadow (section 1.3): the bytes of offsets 000h to 1FFh, the live set and the last-window-fault field.
The lock flag, the effective globals and the filter records are read off the bytes. -/
structure Anchor where
  bytes : Mem
  live : Set16
  lastFault : WindowFault
  deriving DecidableEq, Repr

/-! ### Command Intake and Event Unit -/

/-- The pending first half of a command slot (R21). -/
structure FirstHalf where
  entry : Fin 16
  slot : Addr
  data : Data
  deriving DecidableEq, Repr

/-- The last-command record (R26). -/
structure LastCommand where
  valid : Bool
  hostTag : Byte
  code : Byte
  outcome : CmdOutcome
  entry : Fin 16
  offset : Addr
  deriving DecidableEq, Repr

structure Intake where
  firstHalf : Option FirstHalf
  last : LastCommand
  deriving DecidableEq, Repr

/-! ### Song Clock -/

/-- The Song Clock (R39). -/
structure SongClock where
  state : SongState
  postingDone : Bool
  frames : Nat
  /-- The expected playback beat: a window entry index with a beat address. -/
  expected : Option (Fin 16 × Addr)
  stall : Option Count32
  duration : Nat
  song : Nat
  source : Source
  rate : Nat
  latency : Nat
  stallTimeout : Nat
  captureLatency : Nat
  voicing : Nat
  folding : Bool
  onsetTolerance : Nat
  endOutcome : EndOutcome
  epoch : BitVec 16
  deriving DecidableEq, Repr

/-! ### Strip Store, Timeline Table, Lyric Compositor -/

/-- A strip buffer: its state and its header and coverage bytes, by position (R57, R58). -/
structure StripBuf where
  state : StripState
  bytes : Mem
  deriving DecidableEq, Repr

/-- The scroll record (R64). -/
structure Scroll where
  start : Nat
  blankBelow : Bool
  deriving DecidableEq, Repr

/-- The strip buffers, the timeline table and the display chain with what stands beside it (R57, R62, R64). -/
structure Lyrics where
  strips : Vector StripBuf 4
  timeline : Mem
  chain : List (Fin 4)
  nextLine : Nat
  scroll : Option Scroll
  lateMark : Option Nat
  deriving DecidableEq, Repr

/-- One line of a latched chain: its buffer, its header's part and its wipe (R79). -/
structure ShownLine where
  buffer : Fin 4
  part : Part
  wipe : Nat
  deriving DecidableEq, Repr

/-- The three sung colours (R79, R85). -/
structure SungColours where
  a : Colour
  b : Colour
  both : Colour
  deriving DecidableEq, Repr

/-- The values of a valid lyric latch (R79). -/
structure LyricLatch where
  time : Nat
  width : Nat
  stride : Nat
  bandTop : Nat
  height : Nat
  unsung : Colour
  sung : SungColours
  scrollDuration : Nat
  lineLead : Nat
  lines : List ShownLine
  blankBelow : Bool
  offset : Nat
  deriving DecidableEq, Repr

/-- A note of the visible-note list (R88). -/
structure VisibleNote where
  start : Nat
  stop : Nat
  note : Nat
  part : Part
  deriving DecidableEq, Repr

/-- A channel of the marker set with its lane (R90). -/
structure Marker where
  channel : Fin 4
  lane : Nat
  deriving DecidableEq, Repr

/-- The values of a valid guide latch (R85). -/
structure GuideLatch where
  time : Nat
  width : Nat
  stride : Nat
  bandTop : Nat
  height : Nat
  guideTop : Nat
  guideHeight : Nat
  sung : SungColours
  markerColours : Vector Colour 4
  span : Nat
  floorNote : Nat
  ceilNote : Nat
  key : Int
  nowColumn : Nat
  lanes : Nat
  laneHeight : Nat
  notes : List VisibleNote
  markers : List Marker
  deriving DecidableEq, Repr

/-- The Lyric Compositor's own state beside the chain (R76, R77, R85). A latch record is valid when present. -/
structure Compositor where
  inLyric : Bool
  inGuide : Bool
  lyricLatch : Option LyricLatch
  guideLatch : Option GuideLatch
  floorNote : Nat
  ceilNote : Nat
  key : Int
  deriving DecidableEq, Repr

/-! ### Capture Framer and Pitch Estimator -/

/-- The framer of one channel (R94). -/
structure Framer where
  expected : Option (Fin 16 × Addr)
  samples : List (BitVec 16)
  gaps : Nat
  deriving DecidableEq, Repr

/-- A completed frame whose estimate is in flight: its samples and the record of R98, and the timebase count of its
completion, from which the bound of R108 runs. -/
structure Flight where
  samples : List (BitVec 16)
  position : Nat
  state : SongState
  epoch : BitVec 16
  voicing : Nat
  folding : Bool
  start : Count32
  deriving DecidableEq, Repr

/-- A posted estimate (R107); its channel is the record that holds it. -/
structure Estimate where
  voiced : Bool
  cause : Cause
  energy : Nat
  lag : Nat
  pitch : Nat
  position : Nat
  state : SongState
  epoch : BitVec 16
  folding : Bool
  deriving DecidableEq, Repr

/-! ### Score Engine -/

/-- The open note of a channel (R113). -/
structure OpenNote where
  slot : Nat
  start : Nat
  stop : Nat
  frames : Nat
  credits : Nat
  /-- The onset candidate: the t_f of the first well-sung frame. -/
  onset : Option Nat
  deriving DecidableEq, Repr

/-- The record of one channel (R113). -/
structure Channel where
  part : Part
  difficulty : Difficulty
  key : Int
  openNote : Option OpenNote
  frames : Nat
  credits : Nat
  notesClosed : Nat
  notesHit : Nat
  onsetsCounted : Nat
  onsetsHit : Nat
  running : Nat
  latest : Estimate
  deriving DecidableEq, Repr

/-- The final of one channel with its flag (R122). -/
structure Final where
  score : Nat
  flag : FinalFlag
  deriving DecidableEq, Repr

/-- The last-result record (R129). -/
structure LastResult where
  valid : Bool
  song : Nat
  source : Source
  outcome : EndOutcome
  finals : Vector Final 4
  lead : Option (Fin 4)
  requester : Requester
  deriving DecidableEq, Repr

/-- A scoreboard entry (R126). -/
structure BoardEntry where
  completed : Nat
  last : Nat
  best : Nat
  deriving DecidableEq, Repr

/-- A result posting in progress: the outcome it carries and the timebase count of the end (R124). -/
structure Posting where
  outcome : EndOutcome
  start : Count32
  deriving DecidableEq, Repr

structure Score where
  channels : Vector Channel 4
  result : LastResult
  board : Vector BoardEntry 16
  posting : Option Posting
  gen : Count32
  deriving DecidableEq, Repr

/-! ### Packet Parser and Handset Table -/

/-- The packet assembly: a slot, and the bytes of the beats taken so far, eight a beat (R131). -/
structure Assembly where
  entry : Fin 16
  slot : Addr
  beats : List Data
  deriving DecidableEq, Repr

structure Parser where
  assembly : Option Assembly
  garbled : Nat
  deriving DecidableEq, Repr

/-- The reply fields of a handset (R142). -/
structure Reply where
  sequence : Byte
  outcome : ReplyOutcome
  tag : Nat
  position : Nat
  pendingCount : Nat
  deriving DecidableEq, Repr

/-- The record of one handset (R137). -/
structure Handset where
  state : HandsetState
  errors : Nat
  lastSequence : Option Byte
  presence : Option Count32
  quietCount : Nat
  quiet : Option Count32
  lowBattery : Bool
  vote : Bool
  reply : Reply
  replyCount : Byte
  deriving DecidableEq, Repr

structure Handsets where
  records : Vector Handset 16
  votePassed : Bool
  gen : Count32
  deriving DecidableEq, Repr

/-! ### Request Queue and Room Timer -/

/-- A queue entry (R150). -/
structure Entry where
  tag : Nat
  song : Nat
  requester : Requester
  difficulty : Difficulty
  key : Int
  duet : Bool
  pin : Bool
  repeats : Nat
  duration : Nat
  state : EntryState
  deriving DecidableEq, Repr

/-- The now-playing record: the fields of an entry other than state, and the source (R152). -/
structure NowPlaying where
  source : Source
  tag : Nat
  song : Nat
  requester : Requester
  difficulty : Difficulty
  key : Int
  duet : Bool
  pin : Bool
  repeats : Nat
  duration : Nat
  deriving DecidableEq, Repr

structure Queue where
  entries : List Entry
  nextTag : Nat
  nowPlaying : Option NowPlaying
  gen : Count32
  deriving DecidableEq, Repr

/-- The Room Timer (R167). -/
structure Room where
  state : RoomState
  remaining : Nat
  timer : Option Count32
  deriving DecidableEq, Repr

/-! ### The part -/

/-- Everything the manual gives the part, and the queue of commands that wait. -/
structure State where
  /-- RESET_N is low (R19). -/
  resetLow : Bool
  /-- BUS_RESET_N is low (R20). -/
  busResetLow : Bool
  /-- ANCHOR_SEL[1:0] as sampled when RESET_N last rose (R6, R19). -/
  anchorSel : BitVec 2
  /-- The running millisecond count (R38). -/
  timebase : Count32
  bus : BusPath
  blocked : BlockedRecord
  anchor : Anchor
  intake : Intake
  /-- The pending flags, bit n for event n (R34). -/
  events : Set16
  /-- The status generation count (R31). -/
  statusGen : Count32
  clock : SongClock
  lyrics : Lyrics
  compositor : Compositor
  framers : Vector Framer 4
  /-- The estimates in flight, one a channel at most (R108). -/
  flights : Vector (Option Flight) 4
  /-- The Melody Table's bytes (R111). -/
  melody : Mem
  score : Score
  parser : Parser
  handsets : Handsets
  queue : Queue
  room : Room
  /-- The model's own: how many free choices of Config.expiryChoice have been taken. -/
  choices : Nat
  /-- The model's own: the commands that wait, first in, first out. -/
  pending : List Instr
  deriving DecidableEq, Repr

/-- Faults of the model. The manual names no condition that stops the part. -/
inductive Fault
  /-- Raised by REQUEST_ACCEPT for a start address that is no multiple of 8 or a beat count outside 1 to 16, which is
  no request of the bus (section 1.1). Safe: the model stops. -/
  | busProtocol
  deriving DecidableEq, Repr

/-- Refusals of the model. -/
inductive Refusal
  /-- Raised by `exec` for a row that has no meaning yet; no arm raises it now. Safe. -/
  | notModelled (mnemonic : String)
  /-- Raised by UNKNOWN for a code of R27 or 0, and by PACKET_UNKNOWN_KIND for a kind of 0 to 4: the operand belongs
  to another row of the table. Safe: the model stops. -/
  | otherRow (mnemonic : String)
  deriving DecidableEq, Repr

/-! ### Cold-reset values -/

def BusPath.reset : BusPath :=
  { list := [], held := none, nextSerial := 0, dPort := [], uPort := none }

/-- R11: valid 0 and the other fields 0. -/
def BlockedRecord.reset : BlockedRecord :=
  { valid := false, addr := 0, tag := 0, dir := .read, cause := .memoryTop }

/-- R19. -/
def Anchor.reset : Anchor := { bytes := [], live := 0, lastFault := .none }

/-- R21, R26. -/
def Intake.reset : Intake :=
  { firstHalf := none
    last := { valid := false, hostTag := 0, code := 0, outcome := .done, entry := 0, offset := 0 } }

/-- R39. -/
def SongClock.reset : SongClock :=
  { state := .idle, postingDone := true, frames := 0, expected := none, stall := none, duration := 0, song := 0
    source := .queue, rate := 48000, latency := 0, stallTimeout := 250, captureLatency := 40, voicing := 400
    folding := true, onsetTolerance := 96, endOutcome := .none, epoch := 0 }

/-- R57, R62, R64. -/
def Lyrics.reset : Lyrics :=
  { strips := Vector.replicate 4 { state := .free, bytes := [] }
    timeline := [], chain := [], nextLine := 0, scroll := none, lateMark := none }

/-- R76, R77, R85. -/
def Compositor.reset : Compositor :=
  { inLyric := false, inGuide := false, lyricLatch := none, guideLatch := none, floorNote := 36, ceilNote := 84, key := 0 }

/-- R94. -/
def Framer.reset : Framer := { expected := none, samples := [], gaps := 0 }

/-- R113: unvoiced, cause QUIET, every other field 0. -/
def Estimate.reset : Estimate :=
  { voiced := false, cause := .quiet, energy := 0, lag := 0, pitch := 0, position := 0, state := .idle, epoch := 0
    folding := false }

/-- R113. -/
def Channel.reset : Channel :=
  { part := .off, difficulty := .normal, key := 0, openNote := none, frames := 0, credits := 0, notesClosed := 0
    notesHit := 0, onsetsCounted := 0, onsetsHit := 0, running := 0, latest := Estimate.reset }

/-- R129: valid 0, lead and requester NONE, flags NONE, the others 0. -/
def LastResult.reset : LastResult :=
  { valid := false, song := 0, source := .queue, outcome := .none
    finals := Vector.replicate 4 { score := 0, flag := .none }, lead := none, requester := .none }

/-- R126. -/
def BoardEntry.reset : BoardEntry := { completed := 0, last := 0, best := 0 }

def Score.reset : Score :=
  { channels := Vector.replicate 4 Channel.reset, result := LastResult.reset
    board := Vector.replicate 16 BoardEntry.reset, posting := none, gen := 0 }

/-- R131. -/
def Parser.reset : Parser := { assembly := none, garbled := 0 }

/-- R137: outcome NONE, the others 0. -/
def Reply.reset : Reply := { sequence := 0, outcome := .none, tag := 0, position := 0, pendingCount := 0 }

/-- R137. -/
def Handset.reset : Handset :=
  { state := .absent, errors := 0, lastSequence := none, presence := none, quietCount := 0, quiet := none
    lowBattery := false, vote := false, reply := Reply.reset, replyCount := 0 }

def Handsets.reset : Handsets :=
  { records := Vector.replicate 16 Handset.reset, votePassed := false, gen := 0 }

/-- R150 to R153. -/
def Queue.reset : Queue := { entries := [], nextTag := 1, nowPlaying := none, gen := 0 }

/-- R167. -/
def Room.reset : Room := { state := .closed, remaining := 0, timer := none }

/-- The part right after a cold reset has been released with the straps at 0, with no command waiting. The strap value
and the model's own fields are DESIGN CHOICE (notes/assumptions/1.md and 2.md); every other value is the manual's. -/
def State.reset : State :=
  { resetLow := false, busResetLow := false, anchorSel := 0, timebase := 0, bus := BusPath.reset
    blocked := BlockedRecord.reset, anchor := Anchor.reset, intake := Intake.reset, events := 0, statusGen := 0
    clock := SongClock.reset, lyrics := Lyrics.reset, compositor := Compositor.reset
    framers := Vector.replicate 4 Framer.reset, flights := Vector.replicate 4 none, melody := []
    score := Score.reset, parser := Parser.reset, handsets := Handsets.reset, queue := Queue.reset
    room := Room.reset, choices := 0, pending := [] }

end Sys2Proof.Machine
end

