-- ==== Sys2Proof/Machine/Ops.lean ====
section
/-! DEFINITION. The named operations every block shares: fixed tables, byte stores, byte order, intervals of the
timebase, and the raising of an event. -/

namespace Sys2Proof.Machine

/-! ### Arithmetic the manual names (00_scope.md, Conventions) -/

/-- Replace a value by the nearer end of [lo, hi] when it lies outside; `lo ≤ hi`. -/
def clampNat (lo hi v : Nat) : Nat := max lo (min hi v)

/-- The same on signed values. -/
def clampInt (lo hi v : Int) : Int := max lo (min hi v)

/-- ceil(a / b). -/
def ceilDiv (a b : Nat) : Nat := (a + (b - 1)) / b

/-! ### Tables with a fixed number of members -/

/-- The table with member `i` replaced. -/
def setAt {α : Type} {n : Nat} (v : Vector α n) (i : Fin n) (x : α) : Vector α n := v.set i.val x i.isLt

/-- The table with every member replaced by its image. -/
def mapAll {α β : Type} {n : Nat} (f : α → β) (v : Vector α n) : Vector β n :=
  ⟨(v.toList.map f).toArray, by simp⟩

/-! ### Byte stores -/

/-- One byte of a store; a position that is not listed reads 0. -/
def Mem.read : Mem → Nat → Byte
  | [], _ => 0
  | (b, v) :: m, a => if a = b then v else Mem.read m a

/-- Replace one byte, keeping the canonical form of `Mem`. -/
def Mem.write : Mem → Nat → Byte → Mem
  | [], a, v => if v = 0 then [] else [(a, v)]
  | (b, w) :: m, a, v =>
    if a < b then (if v = 0 then (b, w) :: m else (a, v) :: (b, w) :: m)
    else if a = b then (if v = 0 then m else (a, v) :: m)
    else (b, w) :: Mem.write m a v

/-- Positions from `low` upward, strictly rising, and no byte 0 listed. -/
def Mem.wfFrom : Nat → Mem → Bool
  | _, [] => true
  | low, (a, v) :: m => decide (low ≤ a) && decide (v ≠ 0) && Mem.wfFrom (a + 1) m

/-- The canonical form of a store: positions strictly rising, no byte 0 listed. -/
def Mem.wf (m : Mem) : Bool := Mem.wfFrom 0 m

/-- Byte i of a beat (R172). -/
def dataByte (d : Data) (i : Nat) : Byte := d.extractLsb' (8 * i) 8

/-- The bytes of a beat, byte 0 first. -/
def dataBytes (d : Data) : List Byte := (List.range 8).map (dataByte d)

/-- Replace the bytes base + i for each i from 0 to 7 that `sel` selects by the bytes of a beat. -/
def Mem.writeWhere (m : Mem) (base : Nat) (d : Data) (sel : Nat → Bool) : Mem :=
  (List.range 8).foldl (fun m i => if sel i then m.write (base + i) (dataByte d i) else m) m

/-- Replace the enabled bytes of a beat at `base`. -/
def Mem.writeBeat (m : Mem) (base : Nat) (d : Data) (en : Enables) : Mem := m.writeWhere base d (fun i => en.getLsbD i)

/-- A little-endian field of `n` bytes at position `a` (R172). -/
def Mem.field (m : Mem) (a : Nat) : Nat → Nat
  | 0 => 0
  | n + 1 => (m.read a).toNat + 256 * Mem.field m (a + 1) n

/-- `n` bytes of a value, lowest first (R172). -/
def leBytes : Nat → Nat → List Byte
  | 0, _ => []
  | n + 1, v => BitVec.ofNat 8 v :: leBytes n (v / 256)

/-- `n` reserved bytes of a view (R172). -/
def zeros (n : Nat) : List Byte := List.replicate n 0

/-- A flag or a bit as a view shows it. -/
def bitByte (b : Bool) : Byte := if b then 1 else 0

/-- The value that bytes spell, lowest first (R172). -/
def leValue : List Byte → Nat
  | [] => 0
  | b :: bs => b.toNat + 256 * leValue bs

/-- A signed 8-bit value (R172: key shifts are two's complement). -/
def signed8 (b : Byte) : Int := b.toInt

/-! ### Intervals of the timebase (R38) -/

/-- Ticks since a timer was started; the count wraps at 2^32. -/
def elapsed (now start : Count32) : Nat := (now - start).toNat

/-- A running timer has reached its length; a stopped one never does. -/
def timerDue (now : Count32) (length : Nat) : Option Count32 → Bool
  | none => false
  | some start => decide (length ≤ elapsed now start)

/-! ### Resets -/

/-- Neither reset input is low: the U port accepts requests and takes data (R19, R20). -/
def State.busUp (s : State) : Bool := !s.resetLow && !s.busResetLow

/-! ### Events (R34) -/

/-- The number of an event. -/
def Event.num : Event → Nat
  | .windowFault => 0 | .guardBlock => 1 | .commandRefused => 2 | .songEnded => 3
  | .resultPosted => 4 | .songStalled => 5 | .clockDiscontinuity => 6 | .lineLate => 7
  | .stripRejected => 8 | .captureGap => 9 | .requestWaiting => 10 | .skipVotePassed => 11
  | .handsetChange => 12 | .replyReady => 13 | .queueChanged => 14 | .roomTimeLow => 15

/-- The pending flag of an event. -/
def State.eventPending (s : State) (e : Event) : Bool := s.events.getLsbD e.num

/-- R34, R31: raising a clear event makes it pending and advances the status generation; raising a pending one does
nothing further. -/
def raise (e : Event) (s : State) : State :=
  if s.eventPending e then s
  else { s with events := s.events ||| BitVec.twoPow 16 e.num, statusGen := s.statusGen + 1 }

/-- Raise an event when a condition holds. -/
def raiseIf (c : Bool) (e : Event) (s : State) : State := if c then raise e s else s

end Sys2Proof.Machine
end

