-- ==== Sys2Proof/Machine/Operands.lean ====
section
/-! DEFINITION. Every operand the part reads from bytes: the arguments of the command records (R25, R27, R175), the
part map, the fields of the handset packet (R176) and its check (R134, R136). -/

namespace Sys2Proof.Machine

/-- A beat count of 1 to 16 from a start address that is a multiple of 8 (section 1.1). -/
def requestLegal (r : BusRequest) : Bool := decide (r.addr.toNat % 8 = 0) && decide (1 ≤ r.beats) && decide (r.beats ≤ 16)

/-! ### Command codes (R27) -/

/-- The codes of the command table of R27. -/
def commandCodes : List Byte :=
  [0x01, 0x10, 0x11, 0x12, 0x13, 0x20, 0x30, 0x31, 0x32, 0x33, 0x34, 0x40, 0x50, 0x51, 0x52]

/-- A nonzero code that is not in the command table (R25). -/
def unknownCode (c : Byte) : Bool := decide (c ≠ 0) && !commandCodes.contains c

/-! ### Encodings shared by commands and packets (R175, R176) -/

/-- 0 EASY, 1 NORMAL, 2 HARD. -/
def difficultyOf (b : Byte) : Option Difficulty :=
  if b = 0 then some .easy else if b = 1 then some .normal else if b = 2 then some .hard else none

/-- A key shift of -6 to +6. -/
def keyOf (b : Byte) : Option Int :=
  if decide (-6 ≤ signed8 b) && decide (signed8 b ≤ 6) then some (signed8 b) else none

/-- A song number of 1 to 999,999, the whole field compared. -/
def songOf (v : BitVec 24) : Option Nat :=
  if decide (1 ≤ v.toNat) && decide (v.toNat ≤ 999999) then some v.toNat else none

/-- A duration of 1 to 1800 seconds. -/
def secondsOf (v : BitVec 16) : Option Nat :=
  if decide (1 ≤ v.toNat) && decide (v.toNat ≤ 1800) then some v.toNat else none

/-- A field read as written: 0 and 1 are legal, nothing else (R175). -/
def bitOf (b : Byte) : Option Bool := if b = 0 then some false else if b = 1 then some true else none

/-- A tag of 1 to 255 (R156 to R159). -/
def tagOf (b : Byte) : Option Nat := if b = 0 then none else some b.toNat

/-- The part codes 0 OFF, 1 A, 2 B, 3 BOTH, from two bits. -/
def partOfBits (n : Nat) : Part :=
  match n with
  | 0 => .off | 1 => .a | 2 => .b | _ => .both

/-- The part of channel c in a part map: bits 2c and 2c + 1 (R175). -/
def partOfMap (m : Byte) (c : Nat) : Part := partOfBits (m.toNat / 4 ^ c % 4)

/-! ### SONG_LOAD (R40) -/

/-- What the arguments of a SONG_LOAD name when they pass check 1 of R40. With source QUEUE the song number, the
difficulty and the key shift are not used and not checked. -/
structure LoadRequest where
  direct : Option (Nat × Difficulty × Int)
  parts : Byte
  duration : Nat
  floorNote : Nat
  ceilNote : Nat
  deriving DecidableEq, Repr

/-- Check 1 of R40. -/
def loadArguments (a : SongLoadArgs) : Option LoadRequest :=
  let fl := a.floorNote.toNat
  let ce := a.ceilNote.toNat
  if decide (1 ≤ a.duration.toNat) && decide (a.duration.toNat ≤ 1800000) && decide (36 ≤ fl) && decide (fl ≤ 84) &&
      decide (36 ≤ ce) && decide (ce ≤ 84) && decide (fl ≤ ce) then
    if a.source = 0 then some { direct := none, parts := a.partMap, duration := a.duration.toNat, floorNote := fl, ceilNote := ce }
    else if a.source = 1 then
      match songOf a.song, difficultyOf a.difficulty, keyOf a.key with
      | some n, some d, some k =>
        some { direct := some (n, d, k), parts := a.partMap, duration := a.duration.toNat, floorNote := fl, ceilNote := ce }
      | _, _, _ => none
    else none
  else none

/-! ### QUEUE_INSERT (R155) -/

structure InsertRequest where
  song : Nat
  position : Nat
  duration : Nat
  difficulty : Difficulty
  key : Int
  duet : Bool
  pin : Bool
  deriving DecidableEq, Repr

/-- A queue position of 0 to 48 (R155, R157). -/
def positionOf (b : Byte) : Option Nat := if b.toNat ≤ 48 then some b.toNat else none

/-- The argument check of R155. -/
def insertArguments (a : InsertArgs) : Option InsertRequest :=
  match songOf a.song, positionOf a.position, secondsOf a.duration, difficultyOf a.difficulty, keyOf a.key, bitOf a.duet, bitOf a.pin with
  | some n, some p, some d, some f, some k, some u, some i =>
    some { song := n, position := p, duration := d, difficulty := f, key := k, duet := u, pin := i }
  | _, _, _, _, _, _, _ => none

/-! ### The command record's two beats (R175) -/

/-- Byte i of a command record: bytes 0 to 7 are beat 0, bytes 8 to 15 are beat 1. -/
def recordField (b0 b1 : Data) (i n : Nat) : Nat := leValue (((dataBytes b0 ++ dataBytes b1).drop i).take n)

/-- The arguments of a SONG_LOAD record. -/
def songLoadArgs (b0 b1 : Data) : SongLoadArgs :=
  { source := BitVec.ofNat 8 (recordField b0 b1 2 1), partMap := BitVec.ofNat 8 (recordField b0 b1 3 1)
    duration := BitVec.ofNat 32 (recordField b0 b1 4 4), song := BitVec.ofNat 24 (recordField b0 b1 8 3)
    difficulty := BitVec.ofNat 8 (recordField b0 b1 11 1), key := BitVec.ofNat 8 (recordField b0 b1 12 1)
    floorNote := BitVec.ofNat 8 (recordField b0 b1 13 1), ceilNote := BitVec.ofNat 8 (recordField b0 b1 14 1) }

/-- The arguments of a QUEUE_INSERT record. -/
def insertArgs (b0 b1 : Data) : InsertArgs :=
  { song := BitVec.ofNat 24 (recordField b0 b1 2 3), position := BitVec.ofNat 8 (recordField b0 b1 5 1)
    duration := BitVec.ofNat 16 (recordField b0 b1 6 2), difficulty := BitVec.ofNat 8 (recordField b0 b1 8 1)
    key := BitVec.ofNat 8 (recordField b0 b1 9 1), duet := BitVec.ofNat 8 (recordField b0 b1 10 1)
    pin := BitVec.ofNat 8 (recordField b0 b1 11 1) }

/-! ### Handset packets (R134, R136, R176) -/

/-- The flags field of a packet is 0 or 1 (R136). -/
def flagsLegal (head : PacketHead) : Bool := decide (head.flags.toNat ≤ 1)

/-- The fields of a REQUEST once they pass R136. The duet flag is a flag: every nonzero value is 1. -/
structure SongRequest where
  song : Nat
  difficulty : Difficulty
  key : Int
  duration : Nat
  duet : Bool
  deriving DecidableEq, Repr

/-- The field check of R136 for a REQUEST. -/
def requestArguments (f : RequestFields) : Option SongRequest :=
  match songOf f.song, difficultyOf f.difficulty, keyOf f.key, secondsOf f.duration with
  | some n, some d, some k, some t => some { song := n, difficulty := d, key := k, duration := t, duet := decide (f.duet ≠ 0) }
  | _, _, _, _ => none

/-- Byte i of a packet. -/
def packetByte (bs : List Byte) (i : Nat) : Byte := bs.getD i 0

/-- The 8-bit sum of all bytes of a packet. -/
def packetSum (bs : List Byte) : Byte := bs.foldl (· + ·) 0

/-- The song number of a packet, three bytes. -/
def packetSong (bs : List Byte) : BitVec 24 := BitVec.ofNat 24 (leValue ((bs.drop 4).take 3))

/-- The fields of a REQUEST packet. -/
def packetRequest (bs : List Byte) : RequestFields :=
  { song := packetSong bs, difficulty := packetByte bs 7, key := packetByte bs 8
    duration := BitVec.ofNat 16 (leValue ((bs.drop 9).take 2)), duet := packetByte bs 11 }

end Sys2Proof.Machine
end

