-- ==== Sys2Proof/Machine/Anchor.lean ====
section
/-! DEFINITION. The Anchor Shadow (section 1.3): the window entries, the effective globals, the filter records, the
lock, and what one snooped anchor-page write beat does. -/

namespace Sys2Proof.Machine

/-- The base of the anchor page that the straps select (R6). -/
def anchorBase (sel : BitVec 2) : Addr :=
  if sel = 0 then 0x0FFFF000 else if sel = 1 then 0x1FFFF000 else if sel = 2 then 0x3FFFF000 else 0x7FFFF000

/-- The address lies in the anchor page (R6). -/
def inAnchorPage (sel : BitVec 2) (a : Addr) : Bool := decide (a &&& 0xFFFFF000 = anchorBase sel)

/-! ### Effective globals (R15, R174) -/

/-- A field whose 0 selects the default, and whose other values are clamped. -/
def defaulted (v dflt lo hi : Nat) : Nat := if v = 0 then dflt else clampNat lo hi v

/-- A biased duration: 0 selects the default, n gives n - 1 up to the bound. -/
def biased (v dflt hi : Nat) : Nat := if v = 0 then dflt else min (v - 1) hi

/-- The nearest of the three playback rates; midway between two gives the higher. -/
def nearestRate (v : Nat) : Nat :=
  if v = 0 then 48000 else if v * 2 < 32000 + 44100 then 32000 else if v * 2 < 44100 + 48000 then 44100 else 48000

/-- The least legal stride for a width: max(256, 8 ceil(4W / 8)). -/
def leastStride (width : Nat) : Nat := max 256 (8 * ceilDiv (4 * width) 8)

/-- The effective stride for a width. -/
def strideOf (v width : Nat) : Nat :=
  if v = 0 then 8 * ceilDiv (4 * width) 8 else clampNat (leastStride width) 16384 (v / 8 * 8)

/-- A 24-bit colour: blue, green, red (R174). -/
def colourAt (m : Mem) (a : Nat) : Colour := { blue := m.read a, green := m.read (a + 1), red := m.read (a + 2) }

/-- Effective memory top in MiB, 0 when off (R5). -/
def memoryTop (m : Mem) : Nat := min (m.field 0x100 2) 4095
/-- The lock flag (R18). -/
def lockSet (m : Mem) : Bool := decide (m.read 0x102 ≠ 0)
def frameWidth (m : Mem) : Nat := defaulted (m.field 0x104 2) 1920 64 1920
def strideG (m : Mem) : Nat := strideOf (m.field 0x106 2) (frameWidth m)
def bandTop (m : Mem) : Nat := min (m.field 0x108 2) 2047
def lineHeight (m : Mem) : Nat := defaulted (m.field 0x10A 1) 48 8 96
/-- Effective guide height, 0 when off. -/
def guideHeight (m : Mem) : Nat := defaulted (m.field 0x10B 1) 0 8 64
def guideTop (m : Mem) : Nat := min (m.field 0x10C 2) 2047
def colourUnsung (m : Mem) : Colour := colourAt m 0x110
def sungColours (m : Mem) : SungColours := { a := colourAt m 0x114, b := colourAt m 0x118, both := colourAt m 0x11C }
def markerColour (m : Mem) (c : Nat) : Colour := colourAt m (0x120 + 4 * c)
def scrollDuration (m : Mem) : Nat := biased (m.field 0x130 2) 300 1000
def lineLead (m : Mem) : Nat := biased (m.field 0x132 2) 1500 4000
def guideSpan (m : Mem) : Nat := defaulted (m.field 0x134 2) 4000 1000 8000
def playbackRate (m : Mem) : Nat := nearestRate (m.field 0x136 2)
def outputLatency (m : Mem) : Nat := min (m.field 0x138 2) 16383
def stallTimeoutG (m : Mem) : Nat := defaulted (m.field 0x13A 2) 250 20 2000
def captureLatencyG (m : Mem) : Nat := biased (m.field 0x13C 2) 40 500
def voicingThreshold (m : Mem) : Nat := defaulted (m.field 0x13E 2) 400 1 32767
def onsetToleranceG (m : Mem) : Nat := biased (m.field 0x140 2) 96 250
/-- Effective encore threshold, 0 when off. -/
def encoreThreshold (m : Mem) : Nat := min (m.field 0x142 2) 10000
/-- Octave folding is on when the folding-off flag is 0. -/
def foldingOn (m : Mem) : Bool := decide (m.read 0x144 = 0)
def encoreSteps (m : Mem) : Nat := min (m.field 0x145 1) 7
def handsetQuota (m : Mem) : Nat := defaulted (m.field 0x146 1) 3 1 8
def standbyPercent (m : Mem) : Nat := defaulted (m.field 0x147 1) 90 50 100
/-- Presence timeout in minutes. -/
def presenceMinutes (m : Mem) : Nat := defaulted (m.field 0x148 1) 15 1 60
/-- The presence timeout in ticks (R138). -/
def presenceTicks (m : Mem) : Nat := presenceMinutes m * 60000

/-- A filter action (R17). -/
inductive Action
  | allow | deny | wait
  deriving DecidableEq, Repr

/-- 0 ALLOW, 1 DENY, every other code WAIT (R15, R17). -/
def actionOf (b : Byte) : Action := if b = 0 then .allow else if b = 1 then .deny else .wait

def defaultAction (m : Mem) : Action := actionOf (m.read 0x149)

/-- An event is enabled when its disable bit is 0. -/
def enableSet (m : Mem) : Set16 := ~~~ BitVec.ofNat 16 (m.field 0x14A 2)

/-- Where an event's line pointer points (R36). -/
inductive Line
  | none | attn0 | attn1
  deriving DecidableEq, Repr

/-- 0 NONE, 1 ATTN0, 2 and above ATTN1 (R174). -/
def linePointer (m : Mem) (n : Nat) : Line :=
  if m.read (0x150 + n) = 0 then .none else if m.read (0x150 + n) = 1 then .attn0 else .attn1

/-! ### Filter records (R17, R173) -/

structure Filter where
  enable : Bool
  value : Nat
  mask : Nat
  handsets : Set16
  action : Action
  deriving DecidableEq, Repr

/-- Filter record f as it stands in the shadow; bits 20 to 23 of value and mask are ignored. -/
def filterAt (m : Mem) (f : Nat) : Filter :=
  let a := 0x180 + 16 * f
  { enable := decide (m.read (a + 11) ≠ 0), value := m.field a 3 % 2 ^ 20, mask := m.field (a + 4) 3 % 2 ^ 20
    handsets := BitVec.ofNat 16 (m.field (a + 8) 2), action := actionOf (m.read (a + 10)) }

/-! ### Window entries (R7, R13, R173) -/

/-- The base field of entry i with its low 12 bits taken as 0 (R7). -/
def entryBase (m : Mem) (i : Nat) : Addr := BitVec.ofNat 32 (m.field (16 * i) 4) &&& 0xFFFFF000
def entryMask (m : Mem) (i : Nat) : Set16 := BitVec.ofNat 16 (m.field (16 * i + 4) 2)
def entrySizeCode (m : Mem) (i : Nat) : Nat := m.field (16 * i + 6) 1
def entryRoleCode (m : Mem) (i : Nat) : Nat := m.field (16 * i + 7) 1
def entryUnit (m : Mem) (i : Nat) : Nat := m.field (16 * i + 8) 1
def entryGuard (m : Mem) (i : Nat) : Bool := decide (m.read (16 * i + 9) ≠ 0)
def entryEnable (m : Mem) (i : Nat) : Bool := decide (m.read (16 * i + 15) ≠ 0)

/-- The role of a code of R9; codes above 9 name none and fail the entry check. -/
def roleOf (code : Nat) : Option Role :=
  [Role.none, .scanout, .strip, .timeline, .melody, .capture, .playback, .receive, .command, .view][code]?

/-- The unit an entry of this role may carry (R13). -/
def unitLegal (code unit : Nat) : Bool := if code = 5 ∨ code = 9 then decide (unit ≤ 3) else decide (unit = 0)

/-- The entry check of R13 on entry i of the shadow bytes. -/
def entryCheck (sel : BitVec 2) (m : Mem) (i : Nat) : Bool :=
  let s := entrySizeCode m i
  let base := (entryBase m i).toNat
  let size := 4096 * 2 ^ s
  let page := (anchorBase sel).toNat
  let top := memoryTop m
  decide (s ≤ 16) && decide (base % size = 0) && decide (entryRoleCode m i ≤ 9) &&
    unitLegal (entryRoleCode m i) (entryUnit m i) &&
    !(decide (base < page + 4096) && decide (page < base + size)) &&
    (decide (top = 0) || decide (base + size ≤ top * 1048576))

/-- Bit i of a set made b. -/
def setMember (x : Set16) (i : Nat) (b : Bool) : Set16 := if b then x ||| BitVec.twoPow 16 i else x &&& ~~~ BitVec.twoPow 16 i

/-- R13, R14: what a beat that touched entry i does to the live set. -/
def touchEntry (i : Fin 16) (s : State) : State :=
  if entryEnable s.anchor.bytes i then
    if entryCheck s.anchorSel s.anchor.bytes i then
      { s with anchor := { s.anchor with live := setMember s.anchor.live i true } }
    else
      raise .windowFault
        { s with anchor := { s.anchor with live := setMember s.anchor.live i false, lastFault := .entry i } }
  else { s with anchor := { s.anchor with live := setMember s.anchor.live i false } }

/-- One snooped anchor-page write beat at page offset `off` (R12, R13, R14, R18): bytes at 200h and above and beats
with no enabled byte change nothing; a locked shadow refuses; otherwise the enabled bytes are stored and a touched
entry is checked or taken out of the live set. -/
def shadowBeat (off : Nat) (d : Data) (en : Enables) (s : State) : State :=
  if 0x200 ≤ off ∨ en = 0 then s
  else if lockSet s.anchor.bytes then
    raise .windowFault { s with anchor := { s.anchor with lastFault := .locked } }
  else
    let s := { s with anchor := { s.anchor with bytes := s.anchor.bytes.writeBeat off d en } }
    if off < 0x100 then touchEntry (Fin.ofNat 16 (off / 16)) s else s

end Sys2Proof.Machine
end

