-- ==== Sys2Proof/Machine/Flags.lean ====
section
/-! DEFINITION. The Event Unit's derived flags: the enable set, the highest-pending field and the two attention
lines (R34 to R36), and the clearing of flags by ACK_EVENTS (R28). They are computed from the pending flags and the
shadow at every read, so they follow each change at once. -/

namespace Sys2Proof.Machine

/-- The enable set, read continuously from the globals (R16, R34). -/
def State.enables (s : State) : Set16 := enableSet s.anchor.bytes

/-- Event number n is pending and enabled. -/
def State.eventCounts (s : State) (n : Nat) : Bool := s.events.getLsbD n && s.enables.getLsbD n

/-- The highest-pending field: the lowest number that is pending and enabled, or 16 (R35). -/
def State.highestPending (s : State) : Nat := ((List.range 16).find? s.eventCounts).getD 16

/-- Some pending and enabled event has its pointer at the line; no line is asserted while RESET_N is low (R36). -/
def State.lineHigh (s : State) (l : Line) : Bool :=
  !s.resetLow && (List.range 16).any (fun n => s.eventCounts n && decide (linePointer s.anchor.bytes n = l))

/-- The ATTN0 output (R36). -/
def State.attn0 (s : State) : Bool := s.lineHigh .attn0

/-- The ATTN1 output (R36). -/
def State.attn1 (s : State) : Bool := s.lineHigh .attn1

/-- R28, R31: clear the flags of a mask; the status generation advances when at least one flag was pending. -/
def acknowledge (mask : Set16) (s : State) : State :=
  if s.events &&& mask = 0 then s
  else { s with events := s.events &&& ~~~ mask, statusGen := s.statusGen + 1 }

end Sys2Proof.Machine
end

