-- ==== Sys2Proof/Machine/Clock.lean ====
section
/-! DEFINITION. The Song Clock's own arithmetic: the position (R47, R56), the time a band latch takes (R78), the
remaining time a standby evaluation charges (R160), the ring advance (R45) and the count a seek sets (R52). -/

namespace Sys2Proof.Machine

/-- The position in ms that R47 computes from the frames read. -/
def SongClock.countedMs (c : SongClock) : Nat := (c.frames - c.latency) * 1000 / c.rate

/-- The position as the part shows and uses it (R47, R48, R56): 0 before the clock runs, never above the duration. -/
def SongClock.position (c : SongClock) : Nat :=
  match c.state with
  | .idle | .loaded | .armed => 0
  | .running | .stalled | .ended => min c.countedMs c.duration

/-- A song is loaded and has not ended. -/
def SongState.inProgress : SongState → Bool
  | .loaded | .armed | .running | .stalled => true
  | .idle | .ended => false

/-- The states in which a skip vote is valid (R147, R148). -/
def SongState.votable : SongState → Bool
  | .armed | .running | .stalled => true
  | .idle | .loaded | .ended => false

/-- The song time of a band latch (R78). No latch is taken in IDLE (R76). -/
def SongClock.latchTime (c : SongClock) : Nat :=
  match c.state with
  | .idle | .loaded | .armed => 0
  | .running | .stalled => c.position
  | .ended => c.duration

/-- C of R160: the seconds the current song still needs. -/
def SongClock.remainingSeconds (c : SongClock) : Nat :=
  if c.state.inProgress then ceilDiv (c.duration - c.position) 1000 else 0

/-- The size in bytes of a window of size code s (R7). -/
def Win.size (w : Win) : Addr := BitVec.ofNat 32 (4096 * 2 ^ w.sizeCode)

/-- The address that follows a beat in a ring: at the window's end it is the base (R45, R95). -/
def Win.next (w : Win) (a : Addr) : Addr := if a + 8 = w.base + w.size then w.base else a + 8

/-- The offset of an address from the window's base. -/
def Win.offset (w : Win) (a : Addr) : Nat := (a - w.base).toNat

/-- The frames read after a seek to a position: ceil(position × rate / 1000) plus the output latency (R52). -/
def SongClock.seekFrames (c : SongClock) (position : Nat) : Nat := ceilDiv (position * c.rate) 1000 + c.latency

/-- A PLAYBACK beat is continuous when no beat is expected or it is the expected one (R45). -/
def SongClock.continuous (c : SongClock) (w : Win) (a : Addr) : Bool :=
  match c.expected with
  | none => true
  | some (i, e) => decide (w.index = i) && decide (a = e)

/-- The clock after a counted beat (R44, R45): two frames, the expected beat after this one, the stall timer
restarted, and the state RUNNING. -/
def SongClock.count (c : SongClock) (now : Count32) (w : Win) (a : Addr) : SongClock :=
  { c with frames := c.frames + 2, expected := some (w.index, w.next a), stall := some now, state := .running }

/-- The clock after a discontinuity (R46). -/
def SongClock.resync (c : SongClock) (w : Win) (a : Addr) : SongClock :=
  { c with expected := some (w.index, w.next a) }

/-- The clock at a song end of any cause, steps 1 to 3 of R48. -/
def SongClock.finish (c : SongClock) (o : EndOutcome) : SongClock :=
  { c with state := .ended, endOutcome := o, postingDone := false, stall := none, expected := none, epoch := c.epoch + 1 }

end Sys2Proof.Machine
end

