-- ==== Sys2Proof/Machine/Queue.lean ====
section
/-! DEFINITION. The Request Queue (sections 9.1 to 9.5): tags, the standby evaluation, and the changes of the list and
of the now-playing record. -/

namespace Sys2Proof.Machine

/-- R153: a change of the queue advances the queue generation and raises QUEUE_CHANGED. -/
def queueChanged (s : State) : State := raise .queueChanged { s with queue := { s.queue with gen := s.queue.gen + 1 } }

/-! ### Standby evaluation (R160, R161) -/

/-- The budget B in seconds (R160). -/
def State.budget (s : State) : Nat :=
  match s.room.state with
  | .opened => s.room.remaining * standbyPercent s.anchor.bytes / 100 - s.clock.remainingSeconds
  | .closed | .overtime => 0

/-- The first-fit walk of R161, from a running sum. -/
def standbyWalk (budget : Nat) : Nat → List Entry → List Entry
  | _, [] => []
  | sum, e :: es =>
    if e.state = .waiting then e :: standbyWalk budget sum es
    else if sum + e.duration ≤ budget then { e with state := .queued } :: standbyWalk budget (sum + e.duration) es
    else { e with state := .standby } :: standbyWalk budget sum es

/-- A standby evaluation against the state as it stands; it counts as a change when an entry's state changes (R153, R161). -/
def standbyEvaluate (s : State) : State :=
  let es := standbyWalk s.budget 0 s.queue.entries
  if es = s.queue.entries then s else queueChanged { s with queue := { s.queue with entries := es } }

/-! ### Finding entries -/

/-- The position from 0 of the entry that carries a tag. -/
def Queue.indexOfTag (q : Queue) (tag : Nat) : Option Nat := q.entries.findIdx? (fun e => decide (e.tag = tag))

/-- The position from 0 of the entry that carries a song number. -/
def Queue.indexOfSong (q : Queue) (song : Nat) : Option Nat := q.entries.findIdx? (fun e => decide (e.song = song))

/-- The pending count of a handset (R144): its queue entries, and the now-playing record when it requested that. -/
def Queue.pendingCount (q : Queue) (h : Fin 16) : Nat :=
  q.entries.countP (fun e => decide (e.requester = .handset h)) +
    match q.nowPlaying with
    | some n => if n.requester = .handset h then 1 else 0
    | none => 0

/-! ### Tags (R151) -/

/-- The tag after one, wrapping from 255 to 1. -/
def tagAfter (t : Nat) : Nat := if t = 255 then 1 else t + 1

/-- A tag is carried by an entry or by the now-playing record. -/
def Queue.tagUsed (q : Queue) (t : Nat) : Bool :=
  q.entries.any (fun e => decide (e.tag = t)) ||
    match q.nowPlaying with
    | some n => decide (n.tag = t)
    | none => false

/-- The first unused tag from t on, within a number of steps. -/
def Queue.freeTagFrom (q : Queue) : Nat → Nat → Nat
  | 0, t => t
  | n + 1, t => if q.tagUsed t then q.freeTagFrom n (tagAfter t) else t

/-- The tag that the next added entry takes. -/
def Queue.freeTag (q : Queue) : Nat := q.freeTagFrom 255 q.nextTag

/-! ### Changes of the list -/

/-- A list with an element placed so that it becomes the n-th; at the tail for n = 0 or n beyond the length (R155, R157). -/
def placeAt {α : Type} (l : List α) (n : Nat) (x : α) : List α :=
  if n = 0 ∨ l.length < n then l ++ [x] else l.take (n - 1) ++ x :: l.drop (n - 1)

/-- Add an entry, which takes its tag from the next tag, and evaluate (R151, R154, R155). -/
def addEntry (position : Nat) (e : Entry) (s : State) : State :=
  let t := s.queue.freeTag
  standbyEvaluate
    (queueChanged
      { s with queue := { s.queue with entries := placeAt s.queue.entries position { e with tag := t }, nextTag := tagAfter t } })

/-- Remove the entry at a position from 0, and evaluate (R156). -/
def removeEntry (i : Nat) (s : State) : State :=
  standbyEvaluate (queueChanged { s with queue := { s.queue with entries := s.queue.entries.eraseIdx i } })

/-- Replace the entry at a position from 0. -/
def putEntry (i : Nat) (e : Entry) (s : State) : State :=
  { s with queue := { s.queue with entries := s.queue.entries.set i e } }

/-- The merge of R154: the repeat count increments, stopping at 7, and counts as a change only when it changes. -/
def mergeEntry (i : Nat) (e : Entry) (s : State) : State :=
  if e.repeats < 7 then queueChanged (putEntry i { e with repeats := e.repeats + 1 } s) else s

/-- Move the entry at a position from 0 to position n of the list that remains (R157). -/
def moveEntry (i n : Nat) (e : Entry) (s : State) : State :=
  let es := placeAt (s.queue.entries.eraseIdx i) n e
  let s' := { s with queue := { s.queue with entries := es } }
  standbyEvaluate (if es = s.queue.entries then s' else queueChanged s')

/-- The list emptied; a change when it held an entry (R153, R169, R171). -/
def clearQueue (s : State) : State :=
  if s.queue.entries = [] then s else queueChanged { s with queue := { s.queue with entries := [] } }

/-! ### Take, encore and retire (R163, R165, R166) -/

/-- The now-playing record of a taken entry. -/
def Entry.taken (e : Entry) : NowPlaying :=
  { source := .queue, tag := e.tag, song := e.song, requester := e.requester, difficulty := e.difficulty, key := e.key
    duet := e.duet, pin := e.pin, repeats := e.repeats, duration := e.duration }

/-- The position from 0 of the first QUEUED entry. -/
def Queue.firstQueued (q : Queue) : Option Nat := q.entries.findIdx? (fun e => decide (e.state = .queued))

/-- What SONG_LOAD would make the now-playing record, with the list left behind; none when the take is refused (R163). -/
def Queue.takeFor (q : Queue) (r : LoadRequest) : Option (NowPlaying × List Entry) :=
  match r.direct with
  | some (song, difficulty, key) =>
    some ({ source := .direct, tag := 0, song := song, requester := .none, difficulty := difficulty, key := key
            duet := false, pin := false, repeats := 0, duration := ceilDiv r.duration 1000 }, q.entries)
  | none =>
    match q.firstQueued with
    | none => none
    | some i =>
      match q.entries[i]? with
      | none => none
      | some e => some (e.taken, q.entries.eraseIdx i)

/-- Write the now-playing record and the list that the take leaves (R163). -/
def takeSong (n : NowPlaying) (es : List Entry) (s : State) : State :=
  queueChanged { s with queue := { s.queue with entries := es, nowPlaying := some n } }

/-- How many entries a promoted entry passes: nearest first, at most the encore steps, stopping before a pinned one (R165). -/
def encorePasses (front : List Entry) (steps : Nat) : Nat :=
  ((front.reverse.take steps).takeWhile (fun e => !e.pin)).length

/-- The list with the first entry of handset h moved toward the head (R165). -/
def promoteFirst (h : Fin 16) (steps : Nat) (es : List Entry) : List Entry :=
  match es.findIdx? (fun e => decide (e.requester = .handset h)) with
  | none => es
  | some i =>
    match es[i]? with
    | none => es
    | some e =>
      let front := es.take i
      let k := encorePasses front steps
      front.take (i - k) ++ e :: front.drop (i - k) ++ es.drop (i + 1)

/-- Encore promotion (R165): only for a COMPLETE song of a handset whose lead final reaches a threshold that is on. -/
def encore (outcome : EndOutcome) (lead : Option Nat) (r : Requester) (threshold steps : Nat) (s : State) : State :=
  match r, lead with
  | .handset h, some final =>
    if outcome = .complete ∧ threshold ≠ 0 ∧ threshold ≤ final then
      let es := promoteFirst h steps s.queue.entries
      if es = s.queue.entries then s else queueChanged { s with queue := { s.queue with entries := es } }
    else s
  | _, _ => s

/-- The retire of the now-playing record, and its evaluation (R166). -/
def retire (s : State) : State :=
  standbyEvaluate (queueChanged { s with queue := { s.queue with nowPlaying := none } })

end Sys2Proof.Machine
end

