-- ==== Sys2Proof/Machine/Score.lean ====
section
/-! DEFINITION. The Melody Table and the Score Engine (chapter Melody Table and Scoring): note records, part matching,
frame credit, note closing, scores, finals, and the scoreboard. -/

namespace Sys2Proof.Machine

/-! ### The melody table (R111, R112, R176) -/

/-- A melody slot as it is read; `note` is none for a REST. -/
structure Note where
  valid : Bool
  part : Part
  note : Option Nat
  start : Nat
  stop : Nat
  deriving DecidableEq, Repr

/-- A part code of a strip header or a melody slot that names a part: 1 A, 2 B, 3 BOTH (R176). -/
def namedPart (code : Nat) : Option Part :=
  if code = 1 then some .a else if code = 2 then some .b else if code = 3 then some .both else none

/-- Melody slot i as it stands (R112, R176). -/
def noteAt (m : Mem) (i : Nat) : Note :=
  let a := 8 * i
  let b0 := (m.read a).toNat
  let n := (m.read (a + 1)).toNat
  { valid := decide (b0 % 16 ≠ 0)
    part := (namedPart (b0 / 16)).getD .both
    note := if 36 ≤ n ∧ n ≤ 84 then some n else none
    start := m.field (a + 2) 3, stop := m.field (a + 5) 3 }

/-- A snooped MELODY write beat at window offset f (R111). -/
def melodyBeat (f : Nat) (d : Data) (en : Enables) (s : State) : State :=
  { s with melody := s.melody.writeBeat (8 * (f / 8 % 1024)) d en }

/-- A channel of this part matches a note of that part (R115). -/
def Part.accepts : Part → Part → Bool
  | .off, _ => false
  | .a, p => decide (p = .a) || decide (p = .both)
  | .b, p => decide (p = .b) || decide (p = .both)
  | .both, _ => true

/-- Slot i is a note of the channel's part that contains the time (R117). -/
def isActive (m : Mem) (p : Part) (tf : Nat) (i : Nat) : Bool :=
  let n := noteAt m i
  n.valid && n.note.isSome && p.accepts n.part && decide (n.start ≤ tf) && decide (tf < n.stop)

/-- The active note's slot: the lowest-indexed (R117). -/
def activeSlot (m : Mem) (p : Part) (tf : Nat) : Option Nat := (List.range 1024).find? (isActive m p tf)

/-! ### Frame credit (R119, R120) -/

/-- The target pitch index T of a note under a key shift. -/
def targetPitch (note : Nat) (key : Int) : Int := 4 * (clampInt 36 84 ((note : Int) + key) - 36)

/-- The integer nearest e / 48, a half going toward zero (R119). -/
def nearestOctave (e : Int) : Int := e.sign * (((e.natAbs + 23) / 48 : Nat) : Int)

/-- The pitch error, folded to the pitch class when folding is on (R119). -/
def pitchError (pitch : Nat) (target : Int) (folding : Bool) : Int :=
  let e := (pitch : Int) - target
  if folding then e - 48 * nearestOctave e else e

/-- The credit of an error by difficulty (R120). -/
def creditOf (d : Difficulty) (err : Nat) : Nat :=
  match d with
  | .easy => if err ≤ 2 then 4 else if err ≤ 4 then 3 else if err ≤ 6 then 2 else if err ≤ 10 then 1 else 0
  | .normal => if err ≤ 1 then 4 else if err ≤ 2 then 3 else if err ≤ 4 then 2 else if err ≤ 8 then 1 else 0
  | .hard => if err ≤ 0 then 4 else if err ≤ 1 then 3 else if err ≤ 2 then 2 else if err ≤ 4 then 1 else 0

/-- The credit of an estimate against a note; an unvoiced one earns 0. -/
def frameCredit (c : Channel) (note : Nat) (e : Estimate) : Nat :=
  if e.voiced then creditOf c.difficulty (pitchError e.pitch (targetPitch note c.key) e.folding).natAbs else 0

/-! ### Scores and notes (R121, R122) -/

/-- The running and final score in hundredths (R122). -/
def scoreOf (frames credits onsetsHit onsetsCounted : Nat) : Nat :=
  if frames = 0 then 0
  else if onsetsCounted = 0 then 10000 * credits / (4 * frames)
  else 8000 * credits / (4 * frames) + 2000 * onsetsHit / onsetsCounted

def Channel.score (c : Channel) : Nat := scoreOf c.frames c.credits c.onsetsHit c.onsetsCounted

/-- The note result (R121). -/
def OpenNote.result (n : OpenNote) : Nat := 100 * n.credits / (4 * n.frames)

/-- The note is long enough to judge an onset. -/
def OpenNote.judged (n : OpenNote) : Bool := decide (64 ≤ n.stop - n.start)

/-- The onset candidate is present and within the tolerance of the note's start. -/
def OpenNote.onTime (n : OpenNote) (tolerance : Nat) : Bool :=
  match n.onset with
  | some t => decide ((t : Int) - (n.start : Int) ≤ (tolerance : Int))
  | none => false

/-- The channel after its open note is closed (R121); nothing when none is open. -/
def Channel.closeNote (tolerance : Nat) (c : Channel) : Channel :=
  match c.openNote with
  | none => c
  | some n =>
    let c1 := { c with
      notesClosed := c.notesClosed + 1
      notesHit := c.notesHit + (if 50 ≤ n.result then 1 else 0)
      onsetsCounted := c.onsetsCounted + (if n.judged then 1 else 0)
      onsetsHit := c.onsetsHit + (if n.judged && n.onTime tolerance then 1 else 0)
      openNote := none }
    { c1 with running := c1.score }

/-- 1 when a note is open: what its close adds to the score generation (R31, R121). -/
def Channel.openCount (c : Channel) : Nat := if c.openNote.isSome then 1 else 0

/-- The open note a scorable frame counts into: the one open on the active slot, or a fresh one, with start and end
taken from the slot (R118). -/
def Channel.noteFor (c : Channel) (slot : Nat) (n : Note) : OpenNote :=
  match c.openNote with
  | some o => { o with start := n.start, stop := n.stop }
  | none => { slot := slot, start := n.start, stop := n.stop, frames := 0, credits := 0, onset := none }

/-- Step 4 of R118 with R120: count the frame and its credit. -/
def Channel.countFrame (c : Channel) (slot : Nat) (n : Note) (note tf : Nat) (e : Estimate) : Channel :=
  let o := c.noteFor slot n
  let k := frameCredit c note e
  let onset := if o.onset.isNone && e.voiced && decide (2 ≤ k) then some tf else o.onset
  { c with
    openNote := some { o with frames := o.frames + 1, credits := o.credits + k, onset := onset }
    frames := c.frames + 1
    credits := c.credits + k }

/-- The open note, if any, lies on another slot than the active one (R118). -/
def Channel.onOtherSlot (c : Channel) (slot : Nat) : Bool :=
  match c.openNote with
  | some o => decide (o.slot ≠ slot)
  | none => false

/-- The frame time t_f of an estimate, when it is 0 or above (R116). -/
def frameTime (captureLatency : Nat) (e : Estimate) : Option Nat :=
  if captureLatency + 16 ≤ e.position then some (e.position - captureLatency - 16) else none

/-- What a posting does to its channel: nothing more than the latest estimate (none), or a frame judged at a time. -/
def judgedAt (k : SongClock) (c : Channel) (e : Estimate) : Option Nat :=
  if decide (e.state = .running) && decide (e.epoch = k.epoch) && decide (c.part ≠ .off) && decide (c.frames < 65535) then
    frameTime k.captureLatency e
  else none

/-- The channel after its estimate is posted, and how many notes that closed (R116, R118). -/
def Channel.post (k : SongClock) (m : Mem) (c0 : Channel) (e : Estimate) : Channel × Nat :=
  let c := { c0 with latest := e }
  match judgedAt k c e with
  | none => (c, 0)
  | some tf =>
    match activeSlot m c.part tf with
    | none => (c.closeNote k.onsetTolerance, c.openCount)
    | some slot =>
      let n := noteAt m slot
      if c.onOtherSlot slot then
        ((c.closeNote k.onsetTolerance).countFrame slot n (n.note.getD 0) tf e, c.openCount)
      else (c.countFrame slot n (n.note.getD 0) tf e, 0)

/-! ### The Score Engine -/

/-- The score generation advanced by a number of increments (R31). -/
def bumpScore (n : Nat) (s : State) : State := { s with score := { s.score with gen := s.score.gen + BitVec.ofNat 32 n } }

/-- The channel record of a channel replaced. -/
def putChannel (c : Fin 4) (x : Channel) (s : State) : State :=
  { s with score := { s.score with channels := setAt s.score.channels c x } }

/-- An estimate handed to the Score Engine (R116). -/
def scoreEstimate (ch : Fin 4) (e : Estimate) (s : State) : State :=
  let r := s.score.channels[ch].post s.clock s.melody e
  bumpScore r.2 (putChannel ch r.1 s)

/-- How many channels have a note open. -/
def Score.openNotes (x : Score) : Nat := (x.channels.toList.map Channel.openCount).sum

/-- The open note of every channel closed (R123, R124). -/
def closeAllNotes (s : State) : State :=
  let n := s.score.openNotes
  bumpScore n { s with score := { s.score with channels := mapAll (Channel.closeNote s.clock.onsetTolerance) s.score.channels } }

/-- The song settings latched into a channel at SONG_LOAD, with its counts cleared and its latest estimate kept (R114). -/
def Channel.load (c : Channel) (part : Part) (difficulty : Difficulty) (key : Int) : Channel :=
  { Channel.reset with part := part, difficulty := difficulty, key := key, latest := c.latest }

/-- R114 on the four channel records. -/
def loadChannels (parts : Byte) (difficulty : Difficulty) (key : Int) (s : State) : State :=
  { s with score := { s.score with
      channels := (List.finRange 4).foldl
        (fun v c => setAt v c (v[c].load (partOfMap parts c.val) difficulty key)) s.score.channels } }

/-! ### Result posting (R125, R126) -/

/-- The final of a channel with its flag (R122). -/
def Channel.final (c : Channel) : Final :=
  if c.part = .off then { score := 0, flag := .off }
  else if c.frames = 0 then { score := 0, flag := .noVoice }
  else { score := c.score, flag := .none }

/-- The lead channel: the lowest-numbered of part A or BOTH (R125). -/
def Score.lead (x : Score) : Option (Fin 4) :=
  (List.finRange 4).find? (fun c => decide (x.channels[c].part = .a) || decide (x.channels[c].part = .both))

/-- The final of the lead channel, if there is one. -/
def Score.leadFinal (x : Score) : Option Nat := x.lead.map (fun c => x.channels[c].final.score)

/-- The requester that a posting reads (R125); NONE for a DIRECT song. -/
def Queue.requester (q : Queue) : Requester :=
  match q.nowPlaying with
  | some n => n.requester
  | none => .none

/-- A scoreboard entry after a COMPLETE posting of its handset (R126). -/
def BoardEntry.credit (b : BoardEntry) (lead : Option Nat) : BoardEntry :=
  match lead with
  | some f => { completed := min (b.completed + 1) 255, last := f, best := max b.best f }
  | none => { b with completed := min (b.completed + 1) 255 }

/-- Step 4 of R125. -/
def creditBoard (o : EndOutcome) (lead : Option Nat) (r : Requester) (board : Vector BoardEntry 16) : Vector BoardEntry 16 :=
  match r with
  | .handset h => if o = .complete then setAt board h (board[h].credit lead) else board
  | .staff | .none => board

/-- The last-result record that a posting writes (R125, R129). -/
def postedResult (o : EndOutcome) (s : State) : LastResult :=
  { valid := true, song := s.clock.song, source := s.clock.source, outcome := o
    finals := mapAll Channel.final s.score.channels, lead := s.score.lead, requester := s.queue.requester }

/-- The completion of a result posting of outcome o, in the order of R125. -/
def completePosting (o : EndOutcome) (s : State) : State :=
  let lead := s.score.leadFinal
  let r := s.queue.requester
  let threshold := encoreThreshold s.anchor.bytes
  let steps := encoreSteps s.anchor.bytes
  let s1 := { s with
    score := { s.score with result := postedResult o s, board := creditBoard o lead r s.score.board, posting := none }
    clock := { s.clock with postingDone := true } }
  retire (encore o lead r threshold steps (bumpScore 1 (raise .resultPosted s1)))

/-- The scoreboard cleared (R126, R127, R169). -/
def clearBoard (s : State) : State :=
  { s with score := { s.score with board := Vector.replicate 16 BoardEntry.reset } }

end Sys2Proof.Machine
end

