-- ==== Sys2Proof/Machine/Lyrics.lean ====
section
/-! DEFINITION. The Strip Store, the Timeline Table and the display chain (chapter Strip Store and Lyric Timeline). -/

namespace Sys2Proof.Machine

/-! ### Strip headers and timeline slots (R62, R176) -/

def StripBuf.lineNumber (b : StripBuf) : Nat := b.bytes.field 0 2
def StripBuf.firstSlot (b : StripBuf) : Nat := b.bytes.field 2 2 % 512
def StripBuf.syllableCount (b : StripBuf) : Nat := b.bytes.field 4 1
def StripBuf.partCode (b : StripBuf) : Nat := b.bytes.field 5 1
def StripBuf.lastLine (b : StripBuf) : Bool := decide (b.bytes.read 6 ≠ 0)
def StripBuf.showTime (b : StripBuf) : Nat := b.bytes.field 8 4

/-- The part of a line; the completion check lets only the codes of A, B and BOTH become READY (R60). -/
def StripBuf.part (b : StripBuf) : Part := (namedPart b.partCode).getD .both

/-- READY or SHOWN. -/
def StripBuf.carried (b : StripBuf) : Bool := decide (b.state = .ready) || decide (b.state = .shown)

/-- A timeline slot as it is read (R62). -/
structure Syllable where
  valid : Bool
  line : Nat
  start : Nat
  stop : Nat
  left : Nat
  right : Nat
  deriving DecidableEq, Repr

def syllableAt (m : Mem) (i : Nat) : Syllable :=
  let a := 16 * i
  { valid := decide (m.read a ≠ 0), line := m.field (a + 2) 2, start := m.field (a + 4) 4, stop := m.field (a + 8) 4
    left := m.field (a + 12) 2, right := m.field (a + 14) 2 }

/-- A snooped TIMELINE write beat at window offset f (R62). -/
def timelineBeat (f : Nat) (d : Data) (en : Enables) (s : State) : State :=
  { s with lyrics := { s.lyrics with timeline := s.lyrics.timeline.writeBeat (16 * (f / 16 % 512) + f % 16) d en } }

/-- The slots of a line's range in range order, wrapping from 511 to 0 (R60). -/
def StripBuf.range (b : StripBuf) : List Nat := (List.range b.syllableCount).map (fun k => (b.firstSlot + k) % 512)

/-- The syllables of a line: the slots of its range that are valid and carry its line number (R63). -/
def StripBuf.syllables (b : StripBuf) (timeline : Mem) : List Syllable :=
  (b.range.map (syllableAt timeline)).filter (fun y => y.valid && decide (y.line = b.lineNumber))

/-- The end of a line: the end of its last syllable, 0 when it has none (R63). -/
def StripBuf.lineEnd (b : StripBuf) (timeline : Mem) : Nat :=
  match (b.syllables timeline).getLast? with
  | some y => y.stop
  | none => 0

/-! ### Strip beats (R57 to R60) -/

/-- Start times in range order never fall (R60, test 5). -/
def startsRise : List Syllable → Bool
  | [] => true
  | [_] => true
  | x :: y :: ys => decide (x.start ≤ y.start) && startsRise (y :: ys)

/-- Another READY or SHOWN buffer carries the line number of buffer b (R60, test 6). -/
def Lyrics.duplicated (y : Lyrics) (b : Fin 4) : Bool :=
  (List.finRange 4).any (fun o =>
    decide (o ≠ b) && y.strips[o].carried && decide (y.strips[o].lineNumber = y.strips[b].lineNumber))

/-- The completion check of R60 on buffer b as it stands. -/
def Lyrics.complete (y : Lyrics) (b : Fin 4) : Bool :=
  let buf := y.strips[b]
  let slots := buf.range.map (syllableAt y.timeline)
  decide (buf.lineNumber ≤ 4095) && decide (1 ≤ buf.syllableCount) && decide (buf.syllableCount ≤ 64) &&
    (namedPart buf.partCode).isSome &&
    slots.all (fun s => s.valid && decide (s.line = buf.lineNumber)) && startsRise slots && !y.duplicated b

/-- The state of a strip buffer replaced. -/
def Lyrics.setState (y : Lyrics) (b : Fin 4) (st : StripState) : Lyrics :=
  { y with strips := setAt y.strips b { y.strips[b] with state := st } }

/-- The coverage limit C of a beat: ceil(W × H / 4) (R58). -/
def coverageLimit (m : Mem) : Nat := ceilDiv (frameWidth m * lineHeight m) 4

/-- The beat stores byte i: it is enabled, and its position is a header position or below the coverage limit (R59). -/
def storesByte (p limit : Nat) (en : Enables) (i : Nat) : Bool :=
  en.getLsbD i && decide (p + i < 64 + limit)

/-- The beat writes the complete-flag byte, position 56, with a nonzero value (R59, R176). -/
def submits (p : Nat) (d : Data) (en : Enables) : Bool :=
  decide (p = 56) && en.getLsbD 0 && decide (dataByte d 0 ≠ 0)

/-- The completion check run on buffer b: READY, or FREE with STRIP_REJECTED (R60). -/
def runCompletionCheck (b : Fin 4) (s : State) : State :=
  if s.lyrics.complete b then { s with lyrics := s.lyrics.setState b .ready }
  else raise .stripRejected { s with lyrics := s.lyrics.setState b .free }

/-- The state of a buffer after bytes of a beat have been stored and no check runs (R59): a READY buffer keeps READY
under a coverage beat. -/
def storedState (st : StripState) (p : Nat) : StripState :=
  if st = .ready ∧ 64 ≤ p then .ready else .loading

/-- A snooped STRIP write beat at window offset f (R57 to R59). -/
def stripBeat (f : Nat) (d : Data) (en : Enables) (s : State) : State :=
  let b : Fin 4 := Fin.ofNat 4 (f / 65536)
  let p := f % 65536
  let sel := storesByte p (coverageLimit s.anchor.bytes) en
  let buf := s.lyrics.strips[b]
  if buf.state = .shown ∨ (List.range 8).any sel = false then s
  else
    let buf' := { state := storedState buf.state p, bytes := buf.bytes.writeWhere p d sel }
    let s' := { s with lyrics := { s.lyrics with strips := setAt s.lyrics.strips b buf' } }
    if submits p d en then runCompletionCheck b s' else s'

/-! ### The display chain (R64 to R68) -/

/-- The READY buffer that carries a line number. -/
def Lyrics.readyLine (y : Lyrics) (line : Nat) : Option (Fin 4) :=
  (List.finRange 4).find? (fun b => decide (y.strips[b].state = .ready) && decide (y.strips[b].lineNumber = line))

/-- A READY buffer that carries the next expected line and whose show time has come (R65, R67). -/
def Lyrics.eligible (y : Lyrics) (t : Nat) : Option (Fin 4) :=
  match y.readyLine y.nextLine with
  | some b => if y.strips[b].showTime ≤ t then some b else none
  | none => none

/-- Place a buffer at the bottom of the chain (R65, R67). -/
def Lyrics.showLine (y : Lyrics) (b : Fin 4) : Lyrics :=
  { y.setState b .shown with chain := y.chain ++ [b], nextLine := min (y.nextLine + 1) 4096 }

/-- The bottom line of the chain carries the last-line flag. -/
def Lyrics.closed (y : Lyrics) : Bool :=
  match y.chain.getLast? with
  | some b => y.strips[b].lastLine
  | none => false

/-- One test of fill (R65). -/
def Lyrics.fillOnce (y : Lyrics) (t : Nat) : Lyrics :=
  if y.chain.length < 2 ∧ y.scroll = none ∧ y.closed = false then
    match y.eligible t with
    | some b => y.showLine b
    | none => y
  else y

/-- Fill takes one line at a time, two at most since it runs below two lines (R65). -/
def Lyrics.fill (y : Lyrics) (t : Nat) : Lyrics := (y.fillOnce t).fillOnce t

/-- Lead warning is due (R66): a missing next line, within the lead of the top line's end, not yet marked. -/
def Lyrics.warns (y : Lyrics) (t lead : Nat) : Bool :=
  match y.chain, y.scroll with
  | [k, l], none =>
    !y.strips[l].lastLine && (y.readyLine y.nextLine).isNone &&
      decide ((y.strips[k].lineEnd y.timeline : Int) - (lead : Int) ≤ (t : Int)) && decide (y.lateMark ≠ some y.nextLine)
  | _, _ => false

/-- Lead warning (R66): the line-late mark takes the missing line. -/
def Lyrics.leadWarning (y : Lyrics) (t lead : Nat) : Lyrics :=
  if y.warns t lead then { y with lateMark := some y.nextLine } else y

/-- Scroll start (R67). -/
def Lyrics.scrollStart (y : Lyrics) (t : Nat) : Lyrics :=
  match y.chain, y.scroll with
  | [k, l], none =>
    if y.strips[k].lineEnd y.timeline ≤ t then
      if y.strips[l].lastLine then { y with scroll := some { start := t, blankBelow := true } }
      else
        match y.eligible t with
        | some b => { y.showLine b with scroll := some { start := t, blankBelow := false } }
        | none => y
    else y
  | _, _ => y

/-- Scroll completion (R68): the top line leaves the chain and its buffer becomes FREE. -/
def Lyrics.scrollCompletion (y : Lyrics) (t duration : Nat) : Lyrics :=
  match y.scroll with
  | none => y
  | some r =>
    if (duration : Int) ≤ (t : Int) - (r.start : Int) then
      match y.chain with
      | [] => { y with scroll := none }
      | k :: rest => { y.setState k .free with chain := rest, scroll := none }
    else y

/-- The four steps of chain sequencing at a lyric latch, in order (R64, R79). -/
def Lyrics.sequence (y : Lyrics) (t lead duration : Nat) : Lyrics :=
  (((y.fill t).leadWarning t lead).scrollStart t).scrollCompletion t duration

/-- Chain sequencing with LINE_LATE raised when lead warning is due (R66). -/
def sequenceChain (t lead duration : Nat) (s : State) : State :=
  raiseIf ((s.lyrics.fill t).warns t lead) .lineLate { s with lyrics := s.lyrics.sequence t lead duration }

/-- A SHOWN buffer turned FREE, its bytes kept (R70). -/
def StripBuf.hide (b : StripBuf) : StripBuf := if b.state = .shown then { b with state := .free } else b

/-- SONG_LOAD and SONG_SEEK on the buffers and the chain (R70, R71). -/
def clearChain (nextLine : Nat) (s : State) : State :=
  { s with lyrics := { s.lyrics with
      strips := mapAll StripBuf.hide s.lyrics.strips, chain := [], nextLine := nextLine, scroll := none, lateMark := none } }

/-- A bus reset on the buffers and the chain (R72). -/
def freeStrips (s : State) : State :=
  { s with lyrics := { s.lyrics with
      strips := mapAll (fun b => { b with state := .free }) s.lyrics.strips, chain := [], nextLine := 0, scroll := none
      lateMark := none } }

end Sys2Proof.Machine
end

