-- ==== Sys2Proof/Machine/Bands.lean ====
section
/-! DEFINITION. The Lyric Compositor with its Guide Compositor (chapter Band Compositing): band membership, the two
latches, the wipe, the scroll offset, the guide band's notes, lanes and markers, and the drawing of a pixel. -/

namespace Sys2Proof.Machine

/-! ### Rows and bands (R74, R75) -/

/-- Row r lies in the lyric rows [band top, band top + 2H). -/
def inLyricRows (top height r : Nat) : Bool := decide (top ≤ r) && decide (r < top + 2 * height)

/-- The band tests of a beat, by the current shadow (R75). -/
def lyricBeat (m : Mem) (f : Nat) : Bool := inLyricRows (bandTop m) (lineHeight m) (f / strideG m)

/-- The guide band's own rows: the guide rows that are not lyric rows (R75). -/
def guideBeat (m : Mem) (f : Nat) : Bool :=
  let r := f / strideG m
  decide (guideTop m ≤ r) && decide (r < guideTop m + guideHeight m) && !lyricBeat m f

/-! ### The lyric latch (R79 to R82) -/

/-- The last syllable in range order whose start is at or below t (R80). -/
def sungSyllable (t : Nat) (l : List Syllable) : Option Syllable := (l.filter (fun y => decide (y.start ≤ t))).getLast?

/-- The wipe inside syllable j (R80), with the awkward cases taken first (R81). -/
def wipeIn (t : Nat) (j : Syllable) : Nat :=
  if j.right < j.left then j.left
  else if j.stop ≤ t then j.right
  else j.left + (j.right - j.left) * (t - j.start) / (j.stop - j.start)

/-- The wipe of a line from its syllables (R80, R81). -/
def wipeOf (t : Nat) (l : List Syllable) : Nat :=
  match l with
  | [] => 0
  | first :: _ =>
    if t < first.start then first.left
    else
      match sungSyllable t l with
      | some j => wipeIn t j
      | none => first.left

/-- The scroll offset o (R82). -/
def scrollOffset (height t duration : Nat) (r : Option Scroll) : Nat :=
  match r with
  | none => 0
  | some r =>
    if duration = 0 then height
    else min height ((height : Int) * ((t : Int) - (r.start : Int)) / (duration : Int)).toNat

/-- A buffer of the recorded chain with its part and its wipe (R79). -/
def shownLine (y : Lyrics) (t : Nat) (b : Fin 4) : ShownLine :=
  { buffer := b, part := y.strips[b].part, wipe := wipeOf t (y.strips[b].syllables y.timeline) }

/-- The latch record that a lyric latch makes after chain sequencing (R79). -/
def makeLyricLatch (m : Mem) (t : Nat) (y : Lyrics) : LyricLatch :=
  { time := t, width := frameWidth m, stride := strideG m, bandTop := bandTop m, height := lineHeight m
    unsung := colourUnsung m, sung := sungColours m, scrollDuration := scrollDuration m, lineLead := lineLead m
    lines := y.chain.map (shownLine y t)
    blankBelow := match y.scroll with
      | some r => r.blankBelow
      | none => false
    offset := scrollOffset (lineHeight m) t (scrollDuration m) y.scroll }

/-- A lyric band latch (R79). -/
def takeLyricLatch (s : State) : State :=
  let m := s.anchor.bytes
  let t := s.clock.latchTime
  let s1 := sequenceChain t (lineLead m) (scrollDuration m) s
  { s1 with compositor := { s1.compositor with lyricLatch := some (makeLyricLatch m t s1.lyrics) } }

/-! ### The guide latch (R85, R86, R88, R90) -/

/-- The visible-note list: up to 32 notes in slot order (R88). -/
def visibleNotes (melody : Mem) (t span : Nat) : List VisibleNote :=
  let lo : Int := (t : Int) - ((span / 4 : Nat) : Int)
  let hi : Int := lo + (span : Int)
  ((List.range 1024).filterMap (fun i =>
    let n := noteAt melody i
    match n.note with
    | some p =>
      if n.valid && decide (n.start < n.stop) && decide ((n.start : Int) < hi) && decide (lo < (n.stop : Int)) then
        some { start := n.start, stop := n.stop, note := p, part := n.part : VisibleNote }
      else none
    | none => none)).take 32

/-- The note nearest a pitch index (R90, R106). -/
def nearestNote (pitch : Nat) : Nat := 36 + (pitch + 2) / 4

/-- The lane of a pitch, clamped into the guide range (R87). -/
def laneOf (pitch : Int) (floorNote lanes : Nat) : Nat := (clampInt 0 ((lanes : Int) - 1) (pitch - (floorNote : Int))).toNat

/-- Channel c's marker at a guide latch, if it has one (R90). -/
def markerOf (x : Score) (t floorNote lanes : Nat) (c : Fin 4) : Option Marker :=
  let k := x.channels[c]
  let e := k.latest
  if decide (k.part ≠ .off) && e.voiced && decide (e.position ≤ t) && decide (t - e.position ≤ 64) then
    some { channel := c, lane := laneOf (nearestNote e.pitch : Nat) floorNote lanes }
  else none

/-- The latch record that a guide latch makes (R85). -/
def makeGuideLatch (s : State) : GuideLatch :=
  let m := s.anchor.bytes
  let t := s.clock.latchTime
  let lanes := s.compositor.ceilNote + 1 - s.compositor.floorNote
  { time := t, width := frameWidth m, stride := strideG m, bandTop := bandTop m, height := lineHeight m
    guideTop := guideTop m, guideHeight := guideHeight m, sung := sungColours m
    markerColours := #v[markerColour m 0, markerColour m 1, markerColour m 2, markerColour m 3]
    span := guideSpan m, floorNote := s.compositor.floorNote, ceilNote := s.compositor.ceilNote, key := s.compositor.key
    nowColumn := frameWidth m / 4, lanes := lanes, laneHeight := max 1 (guideHeight m / lanes)
    notes := visibleNotes s.melody t (guideSpan m)
    markers := (List.finRange 4).filterMap (markerOf s.score t s.compositor.floorNote lanes) }

/-- A guide band latch (R85). -/
def takeGuideLatch (s : State) : State :=
  { s with compositor := { s.compositor with guideLatch := some (makeGuideLatch s) } }

/-! ### Drawing the lyric band (R83, R84) -/

/-- The sung colour of a part (R79). -/
def SungColours.of (c : SungColours) : Part → Colour
  | .a => c.a
  | .b => c.b
  | .both | .off => c.both

/-- The coverage of pixel index n in a strip buffer (R58). -/
def StripBuf.coverage (b : StripBuf) (n : Nat) : Nat := (b.bytes.read (64 + n / 4)).toNat / 4 ^ (n % 4) % 4

/-- What the lyric latch does to the pixel in row r and column x (R83). -/
def lyricPaint (l : LyricLatch) (strips : Vector StripBuf 4) (r x : Nat) : Paint :=
  if l.width ≤ x ∨ inLyricRows l.bandTop l.height r = false then .pass
  else
    let v := r - l.bandTop + l.offset
    let i := v / l.height
    if 3 * l.height ≤ v ∨ (i = 2 ∧ l.blankBelow = true) then .pass
    else
      match l.lines[i]? with
      | none => .pass
      | some y =>
        let c := strips[y.buffer].coverage (v % l.height * l.width + x)
        .blend (if x < y.wipe then l.sung.of y.part else l.unsung) c

/-- One byte of the lyric blend: floor((bg (3 - c) + fg c + 1) / 3) (R84). -/
def blendByte (bg fg : Byte) (c : Nat) : Byte := BitVec.ofNat 8 ((bg.toNat * (3 - c) + fg.toNat * c + 1) / 3)

/-! ### Drawing the guide band (R86, R87, R89, R91) -/

/-- The column of a song time (R86). -/
def GuideLatch.column (g : GuideLatch) (time : Nat) : Nat :=
  (clampInt 0 (g.width : Int)
    ((g.nowColumn : Int) + ((time : Int) - (g.time : Int)) * (g.width : Int) / (g.span : Int))).toNat

/-- Guide row y lies in a lane (R87). -/
def GuideLatch.inLane (g : GuideLatch) (lane y : Nat) : Bool :=
  decide ((g.guideHeight : Int) - ((lane : Int) + 1) * (g.laneHeight : Int) ≤ (y : Int)) &&
    decide ((y : Int) < (g.guideHeight : Int) - (lane : Int) * (g.laneHeight : Int))

/-- A marker covers the pixel: four columns at the now column, its lane's rows (R91). -/
def GuideLatch.markerCovers (g : GuideLatch) (x y : Nat) (k : Marker) : Bool :=
  decide (g.nowColumn ≤ x + 2) && decide (x < g.nowColumn + 2) && g.inLane k.lane y

/-- A note's bar covers the pixel (R89). -/
def GuideLatch.barCovers (g : GuideLatch) (x y : Nat) (n : VisibleNote) : Bool :=
  decide (g.column n.start ≤ x) && decide (x < g.column n.stop) &&
    g.inLane (laneOf ((n.note : Int) + g.key) g.floorNote g.lanes) y

/-- What the guide latch does to the pixel in row r and column x (R89). -/
def guidePaint (g : GuideLatch) (r x : Nat) : Paint :=
  if g.width ≤ x ∨ r < g.guideTop ∨ g.guideTop + g.guideHeight ≤ r ∨ inLyricRows g.bandTop g.height r = true then .pass
  else
    let y := r - g.guideTop
    match g.markers.find? (g.markerCovers x y) with
    | some k => .solid g.markerColours[k.channel]
    | none =>
      match g.notes.find? (g.barCovers x y) with
      | some n => .solid (g.sung.of n.part)
      | none => .pass

/-! ### Rewriting memory data -/

/-- A pixel of four bytes after its paint; byte 3 is returned as memory gave it (R84, R89). -/
def paintPixel (p : Paint) (px : BitVec 32) : BitVec 32 :=
  let b := px.extractLsb' 0 8
  let g := px.extractLsb' 8 8
  let r := px.extractLsb' 16 8
  let a := px.extractLsb' 24 8
  match p with
  | .pass => px
  | .blend fg c => a ++ blendByte r fg.red c ++ blendByte g fg.green c ++ blendByte b fg.blue c
  | .solid c => a ++ c.red ++ c.green ++ c.blue

/-- A TRANSFORMed beat: the first pixel in bytes 0 to 3, the second in bytes 4 to 7 (R74). -/
def paintBeat (first second : Paint) (d : Data) : Data :=
  paintPixel second (d.extractLsb' 32 32) ++ paintPixel first (d.extractLsb' 0 32)

/-! ### A SCANOUT read beat (R74 to R77) -/

/-- The lyric latch of a band entry: the beat belongs to the band, its flag was clear, and the song is not IDLE (R76). -/
def enterLyric (inBand : Bool) (s : State) : State :=
  if inBand && !s.compositor.inLyric && decide (s.clock.state ≠ .idle) then takeLyricLatch s else s

/-- The guide latch of a band entry (R76). -/
def enterGuide (inBand : Bool) (s : State) : State :=
  if inBand && !s.compositor.inGuide && decide (s.clock.state ≠ .idle) then takeGuideLatch s else s

/-- The state after a SCANOUT read beat at window offset f: band entries with their latches, then both flags (R76). -/
def scanoutState (f : Nat) (s : State) : State :=
  let inL := lyricBeat s.anchor.bytes f
  let inG := guideBeat s.anchor.bytes f
  let s1 := enterGuide inG (enterLyric inL s)
  { s1 with compositor := { s1.compositor with inLyric := inL, inGuide := inG } }

/-- The treatment of that beat by the latches then in force (R77). -/
def scanoutTreatment (f : Nat) (s : State) : Treatment :=
  if lyricBeat s.anchor.bytes f then
    match s.compositor.lyricLatch with
    | none => .pass
    | some l =>
      let r := f / l.stride
      let x := f % l.stride / 4
      .transform (lyricPaint l s.lyrics.strips r x) (lyricPaint l s.lyrics.strips r (x + 1))
  else if guideBeat s.anchor.bytes f then
    match s.compositor.guideLatch with
    | none => .pass
    | some g =>
      let r := f / g.stride
      let x := f % g.stride / 4
      .transform (guidePaint g r x) (guidePaint g r (x + 1))
  else .pass

end Sys2Proof.Machine
end

