-- ==== Sys2Proof/Machine/Capture.lean ====
section
/-! DEFINITION. The Capture Framer and the Pitch Estimator (chapter Capture Framing and Pitch Estimation): frames,
gaps, the estimate of a frame, and its posting. -/

namespace Sys2Proof.Machine

/-! ### The estimate of a frame (R101 to R107) -/

/-- A frame's samples as signed values. -/
def signedSamples (l : List (BitVec 16)) : List Int := l.map BitVec.toInt

/-- The sum of the magnitudes of samples; |-32,768| is 32,768. -/
def magnitudeSum (x : List Int) : Nat := (x.map Int.natAbs).sum

/-- The energy E (R101). -/
def energyOf (x : List Int) : Nat := magnitudeSum x / 512

/-- The difference function D(L): the sum over i from 0 to 255 of |x[i] - x[i + L]| (R102). -/
def differenceAt (x : List Int) (lag : Nat) : Nat :=
  (List.zipWith (fun a b : Int => (a - b).natAbs) (x.take 256) (x.drop lag)).sum

/-- The candidate lags 16 to 248 (R102). -/
def candidateLags : List Nat := (List.range 233).map (· + 16)

/-- D(15) to D(249). -/
def differenceTable (x : List Int) : List Nat := (List.range 235).map (fun k => differenceAt x (k + 15))

/-- D(L) from the table of D(15) to D(249). -/
def tableAt (d : List Nat) (lag : Nat) : Nat := d.getD (lag - 15) 0

/-- The least of D(16) to D(248) (R102). -/
def leastDifference (d : List Nat) : Nat :=
  (candidateLags.map (tableAt d)).foldl min (tableAt d 16)

/-- The three conditions of R103. -/
def lagFits (d : List Nat) (lag : Nat) : Bool :=
  decide (tableAt d lag ≤ tableAt d (lag - 1)) && decide (tableAt d lag ≤ tableAt d (lag + 1)) &&
    decide (8 * tableAt d lag ≤ 9 * leastDifference d)

/-- The picked lag: the smallest that fits (R103). -/
def pickLag (d : List Nat) : Option Nat := candidateLags.find? (lagFits d)

/-- S of R104: the sum over i from 0 to 255 of |x[i]| + |x[i + L]|. -/
def noiseBound (x : List Int) (lag : Nat) : Nat := magnitudeSum (x.take 256) + magnitudeSum ((x.drop lag).take 256)

/-- off16 of R105: the parabola's offset in sixteenths of a sample. -/
def lagOffset (before at' after : Nat) : Int :=
  let a : Int := (before : Int) - (after : Int)
  let b : Int := (before : Int) - 2 * (at' : Int) + (after : Int)
  if b ≤ 0 then 0 else clampInt (-8) 8 (Int.tdiv (8 * a) b)

/-- lag_q of R105. -/
def refinedLag (d : List Nat) (lag : Nat) : Nat :=
  (16 * (lag : Int) + lagOffset (tableAt d (lag - 1)) (tableAt d lag) (tableAt d (lag + 1))).toNat

/-- The pitch of lag_q lies above k - 1/2 on the scale of R106. With f = 256,000 / lag_q and
f0 = 440 × 2^(-33/12), 48 log2(f / f0) > k - 1/2 says (6400 / (11 lag_q))^96 × 2^265 > 4^k; both sides are whole
once multiplied by (11 lag_q)^96. -/
def pitchAbove (lagQ k : Nat) : Bool := decide (4 ^ k * (11 * lagQ) ^ 96 < 6400 ^ 96 * 2 ^ 200 * 2 ^ 65)

/-- The pitch index P (R106): the integer nearest, a half going to the lower, clamped to 0 to 192. It is the number
of k from 1 to 192 whose lower boundary the pitch is above. -/
def pitchIndex (lagQ : Nat) : Nat := ((List.range 192).filter (fun k => pitchAbove lagQ (k + 1))).length

/-- The estimate of a frame (R101 to R107), computed when it is posted (notes/assumptions/11.md). -/
def Flight.estimate (f : Flight) : Estimate :=
  let x := signedSamples f.samples
  let e := energyOf x
  let d := differenceTable x
  let unvoiced (c : Cause) : Estimate :=
    { voiced := false, cause := c, energy := e, lag := 0, pitch := 0, position := f.position, state := f.state
      epoch := f.epoch, folding := f.folding }
  if e < f.voicing then unvoiced .quiet
  else
    match pickLag d with
    | none => unvoiced .noLag
    | some lag =>
      if noiseBound x lag < 2 * tableAt d lag then unvoiced .noisy
      else
        let q := refinedLag d lag
        { voiced := true, cause := .none, energy := e, lag := q, pitch := pitchIndex q, position := f.position
          state := f.state, epoch := f.epoch, folding := f.folding }

/-! ### Frames (R94 to R98, R108) -/

/-- A framer replaced. -/
def putFramer (c : Fin 4) (f : Framer) (s : State) : State := { s with framers := setAt s.framers c f }

/-- A channel's estimate in flight replaced. -/
def putFlight (c : Fin 4) (f : Option Flight) (s : State) : State := { s with flights := setAt s.flights c f }

/-- The posting of a channel's estimate in flight, if there is one (R108, R116). -/
def postFlight (c : Fin 4) (s : State) : State :=
  match s.flights[c] with
  | none => s
  | some f => scoreEstimate c f.estimate (putFlight c none s)

/-- The four samples of a whole beat, in arrival order (R95). -/
def beatSamples (d : Data) : List (BitVec 16) := (List.range 4).map (fun k => d.extractLsb' (16 * k) 16)

/-- The record made at a frame's completion (R98). -/
def State.flightOf (s : State) (samples : List (BitVec 16)) : Flight :=
  { samples := samples, position := s.clock.position, state := s.clock.state, epoch := s.clock.epoch
    voicing := s.clock.voicing, folding := s.clock.folding, start := s.timebase }

/-- A frame of 512 samples completes: an estimate still in flight is posted first, then the new one begins (R98, R108). -/
def completeFrame (c : Fin 4) (samples : List (BitVec 16)) (s : State) : State :=
  let s1 := postFlight c s
  putFlight c (some (s1.flightOf samples)) s1

/-- A continuous capture beat: its samples are appended, the expected beat moves on, and the frame completes at 512
samples (R95, R98). -/
def appendBeat (c : Fin 4) (w : Win) (a : Addr) (d : Data) (s : State) : State :=
  let f := s.framers[c]
  let x := f.samples ++ beatSamples d
  let next := some (w.index, w.next a)
  if x.length = 512 then completeFrame c x (putFramer c { f with expected := next, samples := [] } s)
  else putFramer c { f with expected := next, samples := x } s

/-- A gap (R97): the frame in progress is discarded, counted and reported, and a whole beat starts the next one. -/
def captureGap (c : Fin 4) (w : Win) (a : Addr) (d : Data) (whole : Bool) (s : State) : State :=
  let f := s.framers[c]
  let f' : Framer :=
    { expected := if whole then some (w.index, w.next a) else none
      samples := if whole then beatSamples d else []
      gaps := min (f.gaps + 1) 65535 }
  raise .captureGap (putFramer c f' s)

/-- A capture beat handed to a channel's framer (R95 to R97). -/
def captureBeat (c : Fin 4) (w : Win) (a : Addr) (d : Data) (en : Enables) (s : State) : State :=
  let whole := decide (en = 0xFF)
  match s.framers[c].expected with
  | none => if whole then appendBeat c w a d (putFramer c { s.framers[c] with samples := [] } s) else s
  | some e => if whole && decide (e = (w.index, a)) then appendBeat c w a d s else captureGap c w a d whole s

/-- A framer after SONG_LOAD or a bus reset: no frame in progress, no expected beat, the gap count kept (R99, R100). -/
def Framer.restart (f : Framer) : Framer := { f with expected := none, samples := [] }

/-- R99, R100 on the four framers. -/
def restartFramers (s : State) : State := { s with framers := mapAll Framer.restart s.framers }

end Sys2Proof.Machine
end

