-- ==== Sys2Proof/Machine/Handsets.lean ====
section
/-! DEFINITION. The Handset Table and what each packet kind does (chapter Handsets and Request Packets). -/

namespace Sys2Proof.Machine

/-! ### Records, events and the skip test -/

/-- ACTIVE or HELD: a handset that counts toward the active count (R148). -/
def HandsetState.present : HandsetState → Bool
  | .active | .held => true
  | .absent | .barred => false

/-- The number of handsets that are ACTIVE or HELD (R148). -/
def Handsets.activeCount (x : Handsets) : Nat := x.records.toList.countP (fun r => r.state.present)

/-- The number of handsets in the vote set (R148). -/
def Handsets.voteCount (x : Handsets) : Nat := x.records.toList.countP (fun r => r.vote)

/-- The votes reach ceil(active count / 2), the count taken as 1 when it is 0 (R148). -/
def Handsets.votesPass (x : Handsets) : Bool := decide (ceilDiv (max 1 x.activeCount) 2 ≤ x.voteCount)

/-- The skip test (R148): at most one pass a song, and only while a vote is valid. -/
def skipTest (s : State) : State :=
  if s.clock.state.votable && !s.handsets.votePassed && s.handsets.votesPass then
    raise .skipVotePassed { s with handsets := { s.handsets with votePassed := true } }
  else s

/-- 1 for a change, 0 for none. -/
def changed {α : Type} [DecidableEq α] (x y : α) : Nat := if x = y then 0 else 1

/-- How many of the counted fields differ: state, error counter, last sequence, low-battery flag, vote membership (R31, R142). -/
def Handset.changes (x y : Handset) : Nat :=
  changed x.state y.state + changed x.errors y.errors + changed x.lastSequence y.lastSequence +
    changed x.lowBattery y.lowBattery + changed x.vote y.vote

/-- The handset generation advanced by a number of increments (R31). -/
def bumpHandsets (n : Nat) (s : State) : State :=
  { s with handsets := { s.handsets with gen := s.handsets.gen + BitVec.ofNat 32 n } }

/-- A handset's record replaced, each counted field that changes advancing the generation (R142). -/
def putHandset (h : Fin 16) (r : Handset) (s : State) : State :=
  bumpHandsets (s.handsets.records[h].changes r)
    { s with handsets := { s.handsets with records := setAt s.handsets.records h r } }

/-- A handset's record replaced with what a change of its state brings: HANDSET_CHANGE (R135, R138 to R141), and the
skip test when the active count changes (R148). -/
def changeHandset (h : Fin 16) (r : Handset) (s : State) : State :=
  let s1 := raiseIf (decide (s.handsets.records[h].state ≠ r.state)) .handsetChange (putHandset h r s)
  if s1.handsets.activeCount = s.handsets.activeCount then s1 else skipTest s1

/-! ### Presence, quiet and release (R138, R140, R141) -/

/-- The handset becomes ABSENT and its presence timer stops (R138). -/
def Handset.lapse (r : Handset) : Handset := { r with state := .absent, presence := none }

/-- The presence timer has reached the timeout that stands now (R138). -/
def presenceDue (s : State) (h : Fin 16) : Bool :=
  s.handsets.records[h].state.present && timerDue s.timebase (presenceTicks s.anchor.bytes) s.handsets.records[h].presence

/-- A presence expiry, when it is due (R138). -/
def expirePresence (h : Fin 16) (s : State) : State :=
  if presenceDue s h then changeHandset h s.handsets.records[h].lapse s else s

/-- Every presence expiry that is due, handset 0 first: what a shortened timeout brings at once (R16, R138;
notes/assumptions/9.md). -/
def expireAllPresence (s : State) : State := (List.finRange 16).foldl (fun s h => expirePresence h s) s

/-- A BARRED handset released to ACTIVE (R140, R141). -/
def Handset.release (r : Handset) (now : Count32) : Handset :=
  { r with state := .active, errors := 0, quietCount := 0, quiet := none, presence := some now }

/-- A quiet interval has passed (R140). -/
def quietDue (s : State) (h : Fin 16) : Bool :=
  decide (s.handsets.records[h].state = .barred) && timerDue s.timebase 10000 s.handsets.records[h].quiet

/-- The expiry of a quiet interval, when it is due: the quiet count increments, and at 128 the handset is released (R140). -/
def expireQuiet (h : Fin 16) (s : State) : State :=
  let r := s.handsets.records[h]
  if quietDue s h then
    if 128 ≤ r.quietCount + 1 then changeHandset h (r.release s.timebase) s
    else putHandset h { r with quietCount := r.quietCount + 1, quiet := some s.timebase } s
  else s

/-- What ROOM_OPEN and ROOM_CLOSE leave of a record (R137). -/
def Handset.vacate (r : Handset) : Handset :=
  { r with state := .absent, errors := 0, lastSequence := none, presence := none, quietCount := 0, quiet := none, vote := false }

/-- The sum of the counted changes over all records under a change of each (R142). -/
def Handsets.changesUnder (x : Handsets) (f : Handset → Handset) : Nat := (x.records.toList.map (fun r => r.changes (f r))).sum

/-- Some record's state changes under a change of each. -/
def Handsets.statesChange (x : Handsets) (f : Handset → Handset) : Bool :=
  x.records.toList.any (fun r => decide (r.state ≠ (f r).state))

/-- ROOM_OPEN and ROOM_CLOSE on the Handset Table (R137): taken at one moment, HANDSET_CHANGE if a state changed, and
the skip test if the active count changed (R148). -/
def vacateHandsets (s : State) : State :=
  let s1 := bumpHandsets (s.handsets.changesUnder Handset.vacate)
    { s with handsets := { s.handsets with records := mapAll Handset.vacate s.handsets.records } }
  let s2 := raiseIf (s.handsets.statesChange Handset.vacate) .handsetChange s1
  if s2.handsets.activeCount = s.handsets.activeCount then s2 else skipTest s2

/-- The vote of a record withdrawn. -/
def Handset.unvote (r : Handset) : Handset := { r with vote := false }

/-- SONG_LOAD on the Handset Table: the vote set emptied and the vote-passed flag cleared (R137). -/
def clearVotes (s : State) : State :=
  bumpHandsets (s.handsets.changesUnder Handset.unvote)
    { s with handsets := { s.handsets with records := mapAll Handset.unvote s.handsets.records, votePassed := false } }

/-! ### Replies (R142) -/

/-- What a processed packet came to: its outcome, the entry tag and the queue position of the reply. -/
structure Answer where
  outcome : ReplyOutcome
  tag : Nat
  position : Nat
  deriving DecidableEq, Repr

/-- An answer that names no entry. -/
def Answer.plain (o : ReplyOutcome) : Answer := { outcome := o, tag := 0, position := 0 }

/-- A reply written: the fields, with the pending count as it stands, the reply count, the generation, REPLY_READY (R142). -/
def writeReply (h : Fin 16) (seq : Byte) (a : Answer) (s : State) : State :=
  let r := s.handsets.records[h]
  let reply : Reply :=
    { sequence := seq, outcome := a.outcome, tag := a.tag, position := a.position, pendingCount := s.queue.pendingCount h }
  raise .replyReady (bumpHandsets 1 (putHandset h { r with reply := reply, replyCount := r.replyCount + 1 } s))

/-! ### The error counter (R139) -/

/-- The counter after an outcome; ROOM_CLOSED and BARRED leave it (R139). -/
def errorsAfter (o : ReplyOutcome) (e : Nat) : Nat :=
  match o with
  | .accepted | .standby | .waiting | .merged | .cancelled | .voted | .queryOk => e - 1
  | .denied | .queueFull | .roomClosed | .barred | .none => e
  | .quotaFull | .notFound | .voteStale => e + 1
  | .fieldError => e + 8

/-- The record with its counter set and its state following the counter (R139). -/
def Handset.follow (r : Handset) (e : Nat) (now : Count32) : Handset :=
  if 256 ≤ e then { r with errors := 256, state := .barred, quietCount := 0, quiet := some now, presence := none }
  else if r.state = .active ∧ 128 ≤ e then { r with errors := e, state := .held }
  else if r.state = .held ∧ e < 128 then { r with errors := e, state := .active }
  else { r with errors := e }

/-! ### The handling of a check-valid packet (R135) -/

/-- Step 4 of R135: an ABSENT handset becomes ACTIVE, or HELD at a counter of 128 or more, and the presence timer of
an ACTIVE or HELD handset restarts. -/
def Handset.heard (r : Handset) (now : Count32) : Handset :=
  match r.state with
  | .absent => { r with state := if 128 ≤ r.errors then .held else .active, presence := some now }
  | .active | .held => { r with presence := some now }
  | .barred => r

/-- Step 5 of R135 with R140: the packet of a BARRED handset. -/
def answerBarred (h : Fin 16) (seq : Byte) (s : State) : State :=
  let r := s.handsets.records[h]
  writeReply h seq (.plain .barred) (putHandset h { r with lastSequence := some seq, quietCount := 0, quiet := some s.timebase } s)

/-- The end of steps 7 and 8: the sequence is stored, the reply written, the counter changed and the state follows (R135, R139). -/
def concludePacket (h : Fin 16) (seq : Byte) (a : Answer) (s : State) : State :=
  let s1 := writeReply h seq a (putHandset h { s.handsets.records[h] with lastSequence := some seq } s)
  let r := s1.handsets.records[h]
  changeHandset h (r.follow (errorsAfter a.outcome r.errors) s1.timebase) s1

/-- The low-battery flag copied from the flags field at step 8 (R135). -/
def copyBattery (head : PacketHead) (s : State) : State :=
  putHandset head.handset { s.handsets.records[head.handset] with lowBattery := decide (head.flags ≠ 0) } s

/-- R135 for a packet of handset h. `process` is what step 8 does, absent when step 7 finds a field out of range or the
kind unknown. -/
def handlePacket (head : PacketHead) (process : Option (State → Answer × State)) (s : State) : State :=
  let h := head.handset
  let seq := head.sequence
  if s.room.state = .closed then writeReply h seq (.plain .roomClosed) s
  else
    let s1 := changeHandset h (s.handsets.records[h].heard s.timebase) s
    let r := s1.handsets.records[h]
    if r.state = .barred then answerBarred h seq s1
    else if r.lastSequence = some seq then s1
    else
      match process with
      | none => concludePacket h seq (.plain .fieldError) s1
      | some p =>
        let out := p s1
        concludePacket h seq out.1 (copyBattery head out.2)

/-! ### REQUEST (R143 to R145) -/

/-- Filter f matches a song from a handset (R143). -/
def Filter.hits (f : Filter) (song : Nat) (h : Fin 16) : Bool :=
  f.enable && decide ((song ^^^ f.value) &&& f.mask = 0) && f.handsets.getLsbD h.val

/-- The action of the lowest-numbered matching filter, or the default (R143). -/
def filterAction (m : Mem) (song : Nat) (h : Fin 16) : Action :=
  match ((List.range 8).map (filterAt m)).find? (fun f => f.hits song h) with
  | some f => f.action
  | none => defaultAction m

/-- The entry that a REQUEST adds (R145, R154). -/
def SongRequest.entry (q : SongRequest) (h : Fin 16) (waits : Bool) : Entry :=
  { tag := 0, song := q.song, requester := .handset h, difficulty := q.difficulty, key := q.key, duet := q.duet
    pin := false, repeats := 0, duration := q.duration, state := if waits then .waiting else .queued }

/-- The outcome that an added entry's state gives (R145). -/
def EntryState.outcome : EntryState → ReplyOutcome
  | .waiting => .waiting
  | .queued => .accepted
  | .standby => .standby

/-- The state of the entry at the tail; QUEUED for an empty list, which an append never leaves. -/
def Queue.tailState (q : Queue) : EntryState :=
  match q.entries.getLast? with
  | some e => e.state
  | none => .queued

/-- What an append answers, from the state after its evaluation: the outcome by the new entry's state, its tag, and the
entry count as its position; WAITING raises REQUEST_WAITING (R145). -/
def answerAppend (tag : Nat) (s : State) : Answer × State :=
  ({ outcome := s.queue.tailState.outcome, tag := tag, position := s.queue.entries.length },
    raiseIf (decide (s.queue.tailState = .waiting)) .requestWaiting s)

/-- The append of R145: the entry at the tail, the evaluation, and the outcome by the state it leaves. -/
def appendRequest (h : Fin 16) (q : SongRequest) (waits : Bool) (s : State) : Answer × State :=
  answerAppend s.queue.freeTag (addEntry 0 (q.entry h waits) s)

/-- The checks of R144 in order, then the append. -/
def processRequest (h : Fin 16) (q : SongRequest) (s : State) : Answer × State :=
  let action := filterAction s.anchor.bytes q.song h
  if action = .deny then (.plain .denied, s)
  else
    match s.queue.indexOfSong q.song with
    | some i =>
      match s.queue.entries[i]? with
      | some e => ({ outcome := .merged, tag := e.tag, position := i + 1 }, mergeEntry i e s)
      | none => (.plain .notFound, s)
    | none =>
      if handsetQuota s.anchor.bytes ≤ s.queue.pendingCount h then (.plain .quotaFull, s)
      else if 48 ≤ s.queue.entries.length then (.plain .queueFull, s)
      else appendRequest h q (decide (action = .wait) || decide (s.handsets.records[h].state = .held)) s

/-! ### CANCEL, VOTE_SKIP, QUERY (R146, R147, R149) -/

/-- The handset's own entry for a song is removed (R146). -/
def processCancel (h : Fin 16) (song : Nat) (s : State) : Answer × State :=
  match s.queue.entries.findIdx? (fun e => decide (e.song = song) && decide (e.requester = .handset h)) with
  | none => (.plain .notFound, s)
  | some i =>
    match s.queue.entries[i]? with
    | none => (.plain .notFound, s)
    | some e => ({ outcome := .cancelled, tag := e.tag, position := 0 }, removeEntry i s)

/-- A vote to skip (R147). -/
def processVote (h : Fin 16) (song : Nat) (s : State) : Answer × State :=
  if s.clock.state.votable && decide (song = s.clock.song) then
    if s.handsets.records[h].vote then (.plain .voted, s)
    else (.plain .voted, skipTest (putHandset h { s.handsets.records[h] with vote := true } s))
  else (.plain .voteStale, s)

/-- The handset's first entry in queue order (R149). -/
def processQuery (h : Fin 16) (s : State) : Answer × State :=
  match s.queue.entries.findIdx? (fun e => decide (e.requester = .handset h)) with
  | none => (.plain .queryOk, s)
  | some i =>
    match s.queue.entries[i]? with
    | none => (.plain .queryOk, s)
    | some e => ({ outcome := .queryOk, tag := e.tag, position := i + 1 }, s)

/-! ### The packets by kind, with the field check of R136 -/

/-- A REQUEST packet (R144). -/
def requestPacket (head : PacketHead) (f : RequestFields) (s : State) : State :=
  handlePacket head
    (if flagsLegal head then (requestArguments f).map (fun q => processRequest head.handset q) else none) s

/-- A CANCEL packet (R146). -/
def cancelPacket (head : PacketHead) (song : BitVec 24) (s : State) : State :=
  handlePacket head (if flagsLegal head then (songOf song).map (fun n => processCancel head.handset n) else none) s

/-- A VOTE_SKIP packet (R147). -/
def votePacket (head : PacketHead) (song : BitVec 24) (s : State) : State :=
  handlePacket head (if flagsLegal head then (songOf song).map (fun n => processVote head.handset n) else none) s

/-- A QUERY packet (R149). -/
def queryPacket (head : PacketHead) (s : State) : State :=
  handlePacket head (if flagsLegal head then some (processQuery head.handset) else none) s

/-- A packet of an unknown kind (R136): FIELD_ERROR whatever its fields hold. -/
def unknownPacket (head : PacketHead) (s : State) : State := handlePacket head none s

/-! ### The Packet Parser (R131 to R134) -/

/-- The garbled count advanced, saturating (R131). -/
def countGarbled (s : State) : State := { s with parser := { s.parser with garbled := min (s.parser.garbled + 1) 65535 } }

/-- The assembly replaced. -/
def setAssembly (a : Option Assembly) (s : State) : State := { s with parser := { s.parser with assembly := a } }

/-- A completed packet's check (R134), and its handling by kind (R135). -/
def completePacket (bs : List Byte) (s : State) : State :=
  let kind := packetByte bs 0
  if kind = 0 then s
  else if packetSum bs ≠ 0 ∨ 15 < (packetByte bs 1).toNat then countGarbled s
  else
    let head : PacketHead :=
      { handset := Fin.ofNat 16 (packetByte bs 1).toNat, sequence := packetByte bs 2, flags := packetByte bs 3 }
    if kind = 1 then requestPacket head (packetRequest bs) s
    else if kind = 2 then cancelPacket head (packetSong bs) s
    else if kind = 3 then votePacket head (packetSong bs) s
    else if kind = 4 then queryPacket head s
    else unknownPacket head s

/-- A RECEIVE beat at window offset f of entry `entry` (R132, R133). -/
def receiveBeat (entry : Fin 16) (f : Nat) (d : Data) (en : Enables) (s : State) : State :=
  let slot : Addr := BitVec.ofNat 32 (f / 32 * 32)
  let k := f % 32 / 8
  let whole := decide (en = 0xFF)
  let fresh : Option Assembly := some { entry := entry, slot := slot, beats := [d] }
  match s.parser.assembly with
  | none => if whole && decide (k = 0) then setAssembly fresh s else s
  | some a =>
    if whole && decide (k = 0) then countGarbled (setAssembly fresh s)
    else if whole && decide (a.entry = entry) && decide (a.slot = slot) && decide (k = a.beats.length) then
      let beats := a.beats ++ [d]
      if k = 3 then completePacket (beats.flatMap dataBytes) (setAssembly none s)
      else setAssembly (some { a with beats := beats }) s
    else countGarbled (setAssembly none s)

end Sys2Proof.Machine
end

