-- ==== Sys2Proof/Machine/Song.lean ====
section
/-! DEFINITION. What the Song Clock does across the blocks: playback beats, the end of a song, stall, and the song
commands (chapter The Song Clock). A command's operation answers its outcome with the state, which is the state it was
given when the outcome is a refusal (R25). -/

namespace Sys2Proof.Machine

/-- The end of a song (R48, R124, R164): the clock, SONG_ENDED, the open notes, the posting begun, the evaluation. -/
def endSong (o : EndOutcome) (s : State) : State :=
  let s1 := closeAllNotes (raise .songEnded { s with clock := s.clock.finish o })
  standbyEvaluate { s1 with score := { s1.score with posting := some { outcome := o, start := s1.timebase } } }

/-- A counted beat (R44, R45), and the end it may bring (R48). -/
def countBeat (w : Win) (a : Addr) (s : State) : State :=
  let c := s.clock.count s.timebase w a
  let s1 := { s with clock := c }
  if c.duration ≤ c.countedMs then endSong .complete s1 else s1

/-- A PLAYBACK read beat handed to the clock (R43 to R46). -/
def playbackBeat (w : Win) (a : Addr) (s : State) : State :=
  match s.clock.state with
  | .idle | .loaded | .ended => s
  | .armed => countBeat w a { s with clock := { s.clock with frames := 0 } }
  | .running | .stalled =>
    if s.clock.continuous w a then countBeat w a s
    else raise .clockDiscontinuity { s with clock := s.clock.resync w a }

/-- The stall timer has reached the latched stall timeout in RUNNING (R50). -/
def stallDue (s : State) : Bool :=
  decide (s.clock.state = .running) && timerDue s.timebase s.clock.stallTimeout s.clock.stall

/-- A stall expiry, when it is due (R50). -/
def expireStall (s : State) : State :=
  if stallDue s then raise .songStalled { s with clock := { s.clock with state := .stalled, stall := none } } else s

/-! ### SONG_LOAD (R40, R41) -/

/-- The Song Clock after a load (R41): settings from the effective globals as they stand. -/
def loadClock (r : LoadRequest) (n : NowPlaying) (m : Mem) (c : SongClock) : SongClock :=
  { state := .loaded, postingDone := true, frames := 0, expected := none, stall := none, duration := r.duration
    song := n.song, source := n.source, rate := playbackRate m, latency := outputLatency m, stallTimeout := stallTimeoutG m
    captureLatency := captureLatencyG m, voicing := voicingThreshold m, folding := foldingOn m
    onsetTolerance := onsetToleranceG m, endOutcome := .none, epoch := c.epoch + 1 }

/-- The song state allows a load: IDLE, or ENDED with the posting done (R40, check 2). -/
def SongClock.loadable (c : SongClock) : Bool :=
  decide (c.state = .idle) || (decide (c.state = .ended) && c.postingDone)

/-- Everything a load that is DONE changes (R41, R70, R85, R99, R114, R137, R163), the evaluation last. -/
def applyLoad (r : LoadRequest) (n : NowPlaying) (es : List Entry) (s : State) : State :=
  let s1 := takeSong n es s
  let s2 := { s1 with
    clock := loadClock r n s1.anchor.bytes s1.clock
    compositor := { s1.compositor with floorNote := r.floorNote, ceilNote := r.ceilNote, key := n.key } }
  standbyEvaluate (clearVotes (restartFramers (clearChain 0 (loadChannels r.parts n.difficulty n.key s2))))

/-- SONG_LOAD: the three checks of R40 in order, then the load. -/
def songLoadOp (a : SongLoadArgs) (s : State) : CmdOutcome × State :=
  match loadArguments a with
  | none => (.refusedArgument, s)
  | some r =>
    if s.clock.loadable then
      match s.queue.takeFor r with
      | none => (.refusedEmpty, s)
      | some (n, es) => (.done, applyLoad r n es s)
    else (.refusedState, s)

/-! ### SONG_START, SONG_SEEK, SONG_STOP (R42, R51 to R53) -/

/-- SONG_START (R42). -/
def songStartOp (s : State) : CmdOutcome × State :=
  if s.clock.state = .loaded then (.done, { s with clock := { s.clock with state := .armed } }) else (.refusedState, s)

/-- The clock after a seek, steps 1 to 4 of R52. -/
def SongClock.seek (c : SongClock) (position : Nat) (now : Count32) : SongClock :=
  { c with
    frames := c.seekFrames position
    expected := none
    stall := if c.state = .running then some now else c.stall
    epoch := c.epoch + 1 }

/-- A seek that passed its checks (R52, R71, R123): at the loaded duration the song then ends. -/
def applySeek (position line : Nat) (s : State) : State :=
  let s1 := standbyEvaluate (clearChain line (closeAllNotes { s with clock := s.clock.seek position s.timebase }))
  if position = s.clock.duration then endSong .complete s1 else s1

/-- SONG_SEEK (R51, R52). -/
def songSeekOp (position : BitVec 32) (line : BitVec 16) (s : State) : CmdOutcome × State :=
  if 4095 < line.toNat ∨ s.clock.duration < position.toNat then (.refusedArgument, s)
  else if s.clock.state = .running ∨ s.clock.state = .stalled then (.done, applySeek position.toNat line.toNat s)
  else (.refusedState, s)

/-- SONG_STOP (R53). -/
def songStopOp (s : State) : CmdOutcome × State :=
  if s.clock.state.inProgress then (.done, endSong .stopped s) else (.refusedState, s)

/-- SCORE_CLEAR_BOARD (R127). -/
def clearBoardOp (s : State) : CmdOutcome × State := (.done, bumpScore 1 (clearBoard s))

end Sys2Proof.Machine
end

