-- ==== Sys2Proof/Machine/Room.lean ====
section
/-! DEFINITION. The Room Timer (section 9.6), the staff commands on the queue (sections 9.2, 9.3) and
HANDSET_RELEASE (R141), each as a decided outcome with its state. -/

namespace Sys2Proof.Machine

/-! ### Staff commands on the queue -/

/-- The entry a QUEUE_INSERT adds (R155). -/
def InsertRequest.entry (r : InsertRequest) : Entry :=
  { tag := 0, song := r.song, requester := .staff, difficulty := r.difficulty, key := r.key, duet := r.duet, pin := r.pin
    repeats := 0, duration := r.duration, state := .queued }

/-- QUEUE_INSERT (R155). -/
def queueInsertOp (a : InsertArgs) (s : State) : CmdOutcome × State :=
  match insertArguments a with
  | none => (.refusedArgument, s)
  | some r =>
    if s.room.state = .closed then (.refusedState, s)
    else if (s.queue.indexOfSong r.song).isSome then (.refusedDuplicate, s)
    else if 48 ≤ s.queue.entries.length then (.refusedFull, s)
    else (.done, addEntry r.position r.entry s)

/-- The position from 0 and the entry that a tag names. -/
def Queue.entryOfTag (q : Queue) (tag : Nat) : Option (Nat × Entry) :=
  match q.indexOfTag tag with
  | none => none
  | some i => (q.entries[i]?).map (fun e => (i, e))

/-- QUEUE_REMOVE (R156). -/
def queueRemoveOp (tag : Byte) (s : State) : CmdOutcome × State :=
  match tagOf tag with
  | none => (.refusedArgument, s)
  | some t =>
    match s.queue.entryOfTag t with
    | none => (.refusedNotFound, s)
    | some (i, _) => (.done, removeEntry i s)

/-- QUEUE_MOVE (R157). -/
def queueMoveOp (tag position : Byte) (s : State) : CmdOutcome × State :=
  match tagOf tag, positionOf position with
  | some t, some n =>
    match s.queue.entryOfTag t with
    | none => (.refusedNotFound, s)
    | some (i, e) => (.done, moveEntry i n e s)
  | _, _ => (.refusedArgument, s)

/-- QUEUE_CONFIRM (R158). -/
def queueConfirmOp (tag : Byte) (s : State) : CmdOutcome × State :=
  match tagOf tag with
  | none => (.refusedArgument, s)
  | some t =>
    match s.queue.entryOfTag t with
    | none => (.refusedNotFound, s)
    | some (i, e) =>
      if e.state = .waiting then (.done, standbyEvaluate (queueChanged (putEntry i { e with state := .queued } s)))
      else (.refusedState, s)

/-- QUEUE_PIN (R159). -/
def queuePinOp (tag setting : Byte) (s : State) : CmdOutcome × State :=
  match tagOf tag, bitOf setting with
  | some t, some p =>
    match s.queue.entryOfTag t with
    | none => (.refusedNotFound, s)
    | some (i, e) => (.done, if e.pin = p then s else queueChanged (putEntry i { e with pin := p } s))
  | _, _ => (.refusedArgument, s)

/-- HANDSET_RELEASE (R141). -/
def handsetReleaseOp (id : Byte) (s : State) : CmdOutcome × State :=
  if 15 < id.toNat then (.refusedArgument, s)
  else
    let h : Fin 16 := Fin.ofNat 16 id.toNat
    if s.handsets.records[h].state = .barred then (.done, changeHandset h (s.handsets.records[h].release s.timebase) s)
    else (.refusedState, s)

/-! ### The room commands (R169 to R171) -/

/-- The Room Timer's three fields set together. -/
def setRoom (st : RoomState) (r : Nat) (timer : Option Count32) (s : State) : State :=
  { s with room := { state := st, remaining := r, timer := timer } }

/-- ROOM_TIME_LOW when R is 300 or below. -/
def raiseIfLow (r : Nat) (s : State) : State := raiseIf (decide (r ≤ 300)) .roomTimeLow s

/-- ROOM_OPEN that is DONE, in the order of R169. -/
def applyRoomOpen (r : Nat) (s : State) : State :=
  standbyEvaluate (raiseIfLow r (clearBoard (vacateHandsets (clearQueue (setRoom .opened r (some s.timebase) s)))))

/-- ROOM_OPEN (R169). -/
def roomOpenOp (seconds : BitVec 32) (s : State) : CmdOutcome × State :=
  if seconds.toNat < 60 ∨ 86400 < seconds.toNat then (.refusedArgument, s)
  else if s.room.state = .closed then (.done, applyRoomOpen seconds.toNat s)
  else (.refusedState, s)

/-- ROOM_EXTEND (R170). -/
def roomExtendOp (seconds : BitVec 32) (s : State) : CmdOutcome × State :=
  if seconds.toNat < 1 ∨ 86400 < seconds.toNat then (.refusedArgument, s)
  else
    match s.room.state with
    | .opened =>
      (.done, standbyEvaluate (setRoom .opened (min (s.room.remaining + seconds.toNat) 86400) s.room.timer s))
    | .overtime =>
      (.done, standbyEvaluate (raiseIfLow seconds.toNat (setRoom .opened seconds.toNat (some s.timebase) s)))
    | .closed => (.refusedState, s)

/-- ROOM_CLOSE (R171). -/
def roomCloseOp (s : State) : CmdOutcome × State :=
  if s.room.state = .closed ∨ s.clock.loadable = false then (.refusedState, s)
  else (.done, vacateHandsets (clearQueue (setRoom .closed 0 none s)))

/-! ### The countdown (R168) -/

/-- The one-second timer has run 1000 ticks in OPEN (R168). -/
def secondDue (s : State) : Bool := decide (s.room.state = .opened) && timerDue s.timebase 1000 s.room.timer

/-- A decrement to r, with its effects (R168). -/
def applySecond (r : Nat) (s : State) : State :=
  let s1 :=
    if r = 0 then raise .roomTimeLow (setRoom .overtime 0 none s)
    else raiseIf (decide (r = 300)) .roomTimeLow (setRoom .opened r (some s.timebase) s)
  if r % 60 = 0 then standbyEvaluate s1 else s1

/-- A one-second expiry, when it is due (R168). -/
def expireSecond (s : State) : State := if secondDue s then applySecond (s.room.remaining - 1) s else s

end Sys2Proof.Machine
end

