-- ==== Sys2Proof/Machine/Views.lean ====
section
/-! DEFINITION. The View Responder (section 2.3): the bytes of the four views, laid out as R177 and R178 give them, and
the eight bytes that one beat of a view answers (R29). -/

namespace Sys2Proof.Machine

/-! ### Codes shared by the views (R177, R178) -/

def SongState.code : SongState → Nat
  | .idle => 0 | .loaded => 1 | .armed => 2 | .running => 3 | .stalled => 4 | .ended => 5

def EndOutcome.code : EndOutcome → Nat
  | .none => 0 | .complete => 1 | .stopped => 2 | .reset => 3

def CmdOutcome.code : CmdOutcome → Nat
  | .done => 0 | .refusedState => 1 | .refusedArgument => 2 | .refusedFull => 3 | .refusedNotFound => 4
  | .refusedDuplicate => 5 | .refusedEmpty => 6 | .incomplete => 7 | .unknown => 8

def Requester.code : Requester → Nat
  | .handset h => h.val | .staff => 0x10 | .none => 0xFF

def Part.code : Part → Nat
  | .off => 0 | .a => 1 | .b => 2 | .both => 3

def Difficulty.code : Difficulty → Nat
  | .easy => 0 | .normal => 1 | .hard => 2

def Source.code : Source → Nat
  | .queue => 0 | .direct => 1

def dirCode : Dir → Nat
  | .read => 0 | .write => 1

def BlockCause.code : BlockCause → Nat
  | .memoryTop => 0 | .guard => 1

def WindowFault.code : WindowFault → Nat
  | .none => 0x80 | .entry i => i.val | .locked => 0xFF

def RoomState.code : RoomState → Nat
  | .closed => 0 | .opened => 1 | .overtime => 2

def StripState.code : StripState → Nat
  | .free => 0 | .loading => 1 | .ready => 2 | .shown => 3

def Action.code : Action → Nat
  | .allow => 0 | .deny => 1 | .wait => 2

def Line.code : Line → Nat
  | .none => 0 | .attn0 => 1 | .attn1 => 2

def EntryState.code : EntryState → Nat
  | .queued => 1 | .standby => 2 | .waiting => 3

def Cause.code : Cause → Nat
  | .none => 0 | .quiet => 1 | .noLag => 2 | .noisy => 3

def FinalFlag.code : FinalFlag → Nat
  | .none => 0 | .noVoice => 1 | .off => 2

def HandsetState.code : HandsetState → Nat
  | .absent => 0 | .active => 1 | .held => 2 | .barred => 3

def ReplyOutcome.code : ReplyOutcome → Nat
  | .none => 0 | .accepted => 1 | .standby => 2 | .waiting => 3 | .merged => 4 | .cancelled => 5 | .voted => 6
  | .queryOk => 7 | .denied => 8 | .queueFull => 9 | .roomClosed => 10 | .barred => 11 | .quotaFull => 12
  | .notFound => 13 | .voteStale => 14 | .fieldError => 15

/-! ### Fields -/

/-- A key shift as a view shows it: 8 bits, two's complement (R172). -/
def keyByte (k : Int) : Byte := BitVec.ofInt 8 k

/-- The bytes of a 16-bit set. -/
def setBytes (x : Set16) : List Byte := leBytes 2 x.toNat

/-- A colour field: blue, green, red, and its reserved byte (R174). -/
def Colour.bytes (c : Colour) : List Byte := [c.blue, c.green, c.red, 0]

/-- Bytes brought to a length: zeros after the last, nothing beyond it. -/
def padTo (n : Nat) (l : List Byte) : List Byte := (l ++ zeros n).take n

/-! ### The status view (R32, R177) -/

/-- 080h to 0FFh: the effective globals in the anchor's layout; the four biased fields in ms. -/
def globalBytes (m : Mem) : List Byte :=
  leBytes 2 (memoryTop m) ++ [bitByte (lockSet m), 0] ++ leBytes 2 (frameWidth m) ++ leBytes 2 (strideG m) ++
  leBytes 2 (bandTop m) ++ leBytes 1 (lineHeight m) ++ leBytes 1 (guideHeight m) ++ leBytes 2 (guideTop m) ++ zeros 2 ++
  (colourUnsung m).bytes ++ (sungColours m).a.bytes ++ (sungColours m).b.bytes ++ (sungColours m).both.bytes ++
  (List.range 4).flatMap (fun c => (markerColour m c).bytes) ++
  leBytes 2 (scrollDuration m) ++ leBytes 2 (lineLead m) ++ leBytes 2 (guideSpan m) ++ leBytes 2 (playbackRate m) ++
  leBytes 2 (outputLatency m) ++ leBytes 2 (stallTimeoutG m) ++ leBytes 2 (captureLatencyG m) ++
  leBytes 2 (voicingThreshold m) ++ leBytes 2 (onsetToleranceG m) ++ leBytes 2 (encoreThreshold m) ++
  [bitByte (!foldingOn m)] ++ leBytes 1 (encoreSteps m) ++ leBytes 1 (handsetQuota m) ++ leBytes 1 (standbyPercent m) ++
  leBytes 1 (presenceMinutes m) ++ leBytes 1 (defaultAction m).code ++ setBytes (~~~ enableSet m) ++ zeros 4 ++
  (List.range 16).flatMap (fun n => leBytes 1 (linePointer m n).code) ++ zeros 32

/-- One effective filter record in the anchor's layout. -/
def Filter.bytes (f : Filter) : List Byte :=
  leBytes 3 f.value ++ zeros 1 ++ leBytes 3 f.mask ++ zeros 1 ++ setBytes f.handsets ++ leBytes 1 f.action.code ++
  [bitByte f.enable] ++ zeros 4

/-- 000h to 00Fh: generation, events and lines. -/
def eventBytes (s : State) : List Byte :=
  leBytes 4 s.statusGen.toNat ++ setBytes s.events ++ setBytes s.enables ++ leBytes 1 s.highestPending ++
  leBytes 1 ((if s.attn0 then 1 else 0) + (if s.attn1 then 2 else 0)) ++ zeros 6

/-- 010h to 01Fh: the song. -/
def songBytes (c : SongClock) : List Byte :=
  leBytes 1 c.state.code ++ leBytes 1 c.endOutcome.code ++ zeros 2 ++ leBytes 4 c.position ++ leBytes 4 c.song ++
  leBytes 4 c.duration

/-- 020h to 02Fh: the windows and the last-blocked record. -/
def windowBytes (a : Anchor) (b : BlockedRecord) : List Byte :=
  setBytes a.live ++ [bitByte (lockSet a.bytes)] ++ leBytes 1 a.lastFault.code ++ [bitByte b.valid] ++
  leBytes 1 (dirCode b.dir) ++ leBytes 1 b.cause.code ++ leBytes 1 b.tag.val ++ leBytes 4 b.addr.toNat ++ zeros 4

/-- 030h to 03Fh: the last-command record. -/
def commandBytes (l : LastCommand) : List Byte :=
  [bitByte l.valid, l.hostTag, l.code] ++ leBytes 1 l.outcome.code ++ leBytes 1 l.entry.val ++ zeros 3 ++
  leBytes 4 l.offset.toNat ++ zeros 4

/-- 040h to 05Bh: the room and the counts. -/
def countBytes (s : State) : List Byte :=
  leBytes 1 s.room.state.code ++ zeros 3 ++ leBytes 4 s.room.remaining ++ leBytes 2 s.parser.garbled ++ zeros 6 ++
  s.framers.toList.flatMap (fun f => leBytes 2 f.gaps)

/-- The line number of a buffer as the status view shows it: 0 for a FREE one (R32). -/
def StripBuf.shownNumber (b : StripBuf) : Nat := if b.state = .free then 0 else b.lineNumber

/-- 058h to 07Fh: the strips and the chain. -/
def stripBytes (y : Lyrics) : List Byte :=
  y.strips.toList.flatMap (fun b => leBytes 1 b.state.code) ++ zeros 4 ++
  y.strips.toList.flatMap (fun b => leBytes 2 b.shownNumber) ++
  leBytes 1 y.chain.length ++ [bitByte y.scroll.isSome] ++ leBytes 2 y.nextLine ++
  padTo 6 (y.chain.flatMap (fun b => leBytes 2 y.strips[b].lineNumber)) ++ zeros 14

/-- The status view, 384 bytes (R177). -/
def statusView (s : State) : List Byte :=
  eventBytes s ++ songBytes s.clock ++ windowBytes s.anchor s.blocked ++ commandBytes s.intake.last ++ countBytes s ++
  stripBytes s.lyrics ++ globalBytes s.anchor.bytes ++ (List.range 8).flatMap (fun f => (filterAt s.anchor.bytes f).bytes)

/-! ### The queue view (R33, R178) -/

/-- The entry layout of R178, with the state code given. -/
def entryBytes (tag : Nat) (r : Requester) (state : Nat) (d : Difficulty) (key : Int) (duet pin : Bool)
    (repeats song duration : Nat) : List Byte :=
  leBytes 1 tag ++ leBytes 1 r.code ++ leBytes 1 state ++ leBytes 1 d.code ++
  [keyByte key, (if duet then 1 else 0) + (if pin then 2 else 0)] ++ leBytes 1 repeats ++ zeros 1 ++ leBytes 4 song ++
  leBytes 2 duration ++ zeros 2

def Entry.bytes (e : Entry) : List Byte :=
  entryBytes e.tag e.requester e.state.code e.difficulty e.key e.duet e.pin e.repeats e.song e.duration

/-- 008h to 01Fh: the present flag, the source and the now-playing record, all 0 when it is absent. -/
def nowPlayingBytes (n : Option NowPlaying) : List Byte :=
  match n with
  | none => zeros 24
  | some n =>
    [1] ++ leBytes 1 n.source.code ++ zeros 6 ++
    entryBytes n.tag n.requester 0 n.difficulty n.key n.duet n.pin n.repeats n.song n.duration

/-- The queue view, 800 bytes. -/
def queueView (q : Queue) : List Byte :=
  leBytes 4 q.gen.toNat ++ leBytes 4 q.entries.length ++ nowPlayingBytes q.nowPlaying ++
  padTo 768 (q.entries.flatMap Entry.bytes)

/-! ### The score view (R33, R178) -/

/-- The bytes 03h to 1Bh of a channel's record: the open note, 0 when absent. -/
def openNoteBytes (o : Option OpenNote) : List Byte :=
  match o with
  | none => zeros 25
  | some n =>
    [1] ++ leBytes 2 n.slot ++ leBytes 2 n.frames ++ leBytes 4 n.start ++ leBytes 4 n.stop ++ leBytes 4 n.credits ++
    [bitByte n.onset.isSome] ++ zeros 3 ++ leBytes 4 (n.onset.getD 0)

/-- The bytes 30h to 3Fh of a channel's record. -/
def Estimate.bytes (e : Estimate) : List Byte :=
  [bitByte e.voiced] ++ leBytes 1 e.cause.code ++ leBytes 1 e.state.code ++ [bitByte e.folding] ++ leBytes 2 e.energy ++
  leBytes 2 e.lag ++ leBytes 1 e.pitch ++ zeros 1 ++ leBytes 2 e.epoch.toNat ++ leBytes 4 e.position

/-- The record of a channel, 64 bytes. -/
def Channel.bytes (c : Channel) : List Byte :=
  leBytes 1 c.part.code ++ leBytes 1 c.difficulty.code ++ [keyByte c.key] ++ openNoteBytes c.openNote ++
  leBytes 2 c.frames ++ zeros 2 ++ leBytes 4 c.credits ++ leBytes 2 c.notesClosed ++ leBytes 2 c.notesHit ++
  leBytes 2 c.onsetsCounted ++ leBytes 2 c.onsetsHit ++ leBytes 2 c.running ++ zeros 2 ++ c.latest.bytes

/-- The lead channel's code: 0 to 3, FFh for NONE. -/
def leadCode (l : Option (Fin 4)) : Nat :=
  match l with
  | some c => c.val
  | none => 0xFF

/-- The last-result record, 32 bytes with its reserved ones. -/
def LastResult.bytes (r : LastResult) : List Byte :=
  [bitByte r.valid] ++ leBytes 1 r.source.code ++ leBytes 1 r.outcome.code ++ leBytes 1 (leadCode r.lead) ++
  leBytes 1 r.requester.code ++ zeros 3 ++ leBytes 4 r.song ++ r.finals.toList.flatMap (fun f => leBytes 2 f.score) ++
  r.finals.toList.flatMap (fun f => leBytes 1 f.flag.code) ++ zeros 8

def BoardEntry.bytes (b : BoardEntry) : List Byte := leBytes 2 b.completed ++ leBytes 2 b.last ++ leBytes 2 b.best ++ zeros 2

/-- The score view, 424 bytes. -/
def scoreView (x : Score) : List Byte :=
  leBytes 4 x.gen.toNat ++ zeros 4 ++ x.channels.toList.flatMap Channel.bytes ++ x.result.bytes ++
  x.board.toList.flatMap BoardEntry.bytes

/-! ### The handset view (R33, R178) -/

/-- The record of a handset, 16 bytes. -/
def Handset.bytes (r : Handset) : List Byte :=
  leBytes 1 r.state.code ++ [bitByte r.lastSequence.isSome, r.lastSequence.getD 0, bitByte r.lowBattery, bitByte r.vote,
    r.replyCount] ++ leBytes 2 r.errors ++ [r.reply.sequence] ++ leBytes 1 r.reply.outcome.code ++ leBytes 1 r.reply.tag ++
  leBytes 1 r.reply.position ++ leBytes 1 r.reply.pendingCount ++ zeros 3

/-- The handset view, 264 bytes. -/
def handsetView (x : Handsets) : List Byte :=
  leBytes 4 x.gen.toNat ++ zeros 4 ++ x.records.toList.flatMap Handset.bytes

/-! ### Answers (R29, R30) -/

/-- The view that a unit names. An entry of role VIEW carries no unit above 3 (R13). -/
def viewBytes (unit : Nat) (s : State) : List Byte :=
  if unit = 0 then statusView s
  else if unit = 1 then queueView s.queue
  else if unit = 2 then scoreView s.score
  else handsetView s.handsets

/-- The eight bytes of a view at an offset, zeros at and after its length. -/
def viewBeat (unit offset : Nat) (s : State) : Data := BitVec.ofNat 64 (leValue (((viewBytes unit s).drop offset).take 8))

end Sys2Proof.Machine
end

