-- ==== Sys2Proof/Machine/Match.lean ====
section
/-! DEFINITION. The Window Match Unit (section 1.2): the four checks of R4 on one beat. -/

namespace Sys2Proof.Machine

/-- What the checks decide for a beat. -/
inductive Match
  /-- BLOCKed, by the memory top or by a guard (R5, R8). -/
  | block (c : BlockCause)
  | pass
  /-- A write beat in the anchor page (R6). -/
  | anchorWrite
  /-- Won by a live entry with the initiator in its mask: the role of R9 and the unit decide. -/
  | window (w : Win) (role : Role) (unit : Nat)
  deriving DecidableEq, Repr

/-- The address is at or above an effective memory top that is on (R5). -/
def aboveTop (m : Mem) (a : Addr) : Bool := decide (memoryTop m ≠ 0) && decide (memoryTop m * 1048576 ≤ a.toNat)

/-- Address XOR base has every bit from bit 12 + s upward equal to 0 (R7). -/
def containsAddr (base : Addr) (sizeCode : Nat) (a : Addr) : Bool := decide ((a ^^^ base) >>> (12 + sizeCode) = 0)

/-- Entry i is live and contains the address. -/
def Anchor.covers (x : Anchor) (a : Addr) (i : Fin 16) : Bool :=
  x.live.getLsbD i.val && containsAddr (entryBase x.bytes i) (entrySizeCode x.bytes i) a

/-- The lowest-numbered live entry that contains the address (R4, R7). -/
def Anchor.winner (x : Anchor) (a : Addr) : Option (Fin 16) := (List.finRange 16).find? (x.covers a)

/-- The window of an entry as the shadow gives it. -/
def Anchor.window (x : Anchor) (i : Fin 16) : Win :=
  { index := i, base := entryBase x.bytes i, sizeCode := entrySizeCode x.bytes i }

/-- The mask and the guard of the winning entry (R8). -/
def Anchor.ownerMatch (x : Anchor) (dir : Dir) (tag : Fin 16) (i : Fin 16) : Match :=
  if (entryMask x.bytes i).getLsbD tag.val then
    .window (x.window i) ((roleOf (entryRoleCode x.bytes i)).getD .none) (entryUnit x.bytes i)
  else if dir = .write ∧ entryGuard x.bytes i = true then .block .guard
  else .pass

/-- The checks of R4, in their order. -/
def matchBeat (sel : BitVec 2) (x : Anchor) (dir : Dir) (tag : Fin 16) (a : Addr) : Match :=
  if aboveTop x.bytes a then .block .memoryTop
  else if inAnchorPage sel a then
    match dir with
    | .read => .pass
    | .write => .anchorWrite
  else
    match x.winner a with
    | none => .pass
    | some i => x.ownerMatch dir tag i

end Sys2Proof.Machine
end

