-- ==== Sys2Proof/Machine/Commands.lean ====
section
/-! DEFINITION. The Command Intake (sections 2.1 and 2.2): assembly, the last-command record, and the rows of the table
that hand an assembled command or a handset packet to its owner. A hand-over row is the step a write beat takes inline
when it completes the record or packet; given as a command of its own it bypasses the bus, and while a reset input is low,
when no data is taken (R19, R20), it is turned away (notes/assumptions/5.md). -/

namespace Sys2Proof.Machine

/-! ### The last-command record (R26, R31, R37) -/

/-- The pending first half replaced. -/
def setFirstHalf (h : Option FirstHalf) (s : State) : State := { s with intake := { s.intake with firstHalf := h } }

/-- A last-command record written: the status generation advances, and an outcome other than DONE raises COMMAND_REFUSED. -/
def recordCommand (slot : CmdSlot) (code : Byte) (o : CmdOutcome) (s : State) : State :=
  raiseIf (decide (o ≠ .done)) .commandRefused
    { s with
      intake := { s.intake with
        last := { valid := true, hostTag := slot.hostTag, code := code, outcome := o, entry := slot.entry, offset := slot.offset } }
      statusGen := s.statusGen + 1 }

/-- An assembled command taken (R23, R25): the pending first half is absent afterwards, the owner decides the outcome,
and the record is written with it. -/
def takeCommand (slot : CmdSlot) (code : Byte) (op : State → CmdOutcome × State) (s : State) : State :=
  let r := op (setFirstHalf none s)
  recordCommand slot code r.1 r.2

/-- ACK_EVENTS on the Event Unit (R28). -/
def ackOp (mask : Set16) (s : State) : CmdOutcome × State := (.done, acknowledge mask s)

/-- A code that names no command (R25). -/
def unknownOp (s : State) : CmdOutcome × State := (.unknown, s)

/-! ### Dispatch by code (R27) with the arguments of R175 -/

/-- The owner's decision for a record's code, from the two beats of its slot. -/
def commandOp (code : Byte) (b0 b1 : Data) : State → CmdOutcome × State :=
  let arg (i : Nat) : Byte := BitVec.ofNat 8 (recordField b0 b1 i 1)
  let word (i : Nat) : BitVec 32 := BitVec.ofNat 32 (recordField b0 b1 i 4)
  if code = 0x01 then ackOp (BitVec.ofNat 16 (recordField b0 b1 2 2))
  else if code = 0x10 then songLoadOp (songLoadArgs b0 b1)
  else if code = 0x11 then songStartOp
  else if code = 0x12 then songSeekOp (word 4) (BitVec.ofNat 16 (recordField b0 b1 8 2))
  else if code = 0x13 then songStopOp
  else if code = 0x20 then clearBoardOp
  else if code = 0x30 then queueInsertOp (insertArgs b0 b1)
  else if code = 0x31 then queueRemoveOp (arg 2)
  else if code = 0x32 then queueMoveOp (arg 2) (arg 3)
  else if code = 0x33 then queueConfirmOp (arg 2)
  else if code = 0x34 then queuePinOp (arg 2) (arg 3)
  else if code = 0x40 then handsetReleaseOp (arg 2)
  else if code = 0x50 then roomOpenOp (word 4)
  else if code = 0x51 then roomExtendOp (word 4)
  else if code = 0x52 then roomCloseOp
  else unknownOp

/-! ### Assembly (R21 to R23) -/

/-- An assembled record: code 0 is dropped, every other code is taken (R23). -/
def takeRecord (entry : Fin 16) (slot : Addr) (b0 b1 : Data) (s : State) : State :=
  if dataByte b0 0 = 0 then setFirstHalf none s
  else
    takeCommand { hostTag := dataByte b0 1, entry := entry, offset := slot } (dataByte b0 0) (commandOp (dataByte b0 0) b0 b1) s

/-- A refusal INCOMPLETE of a slot, with the host tag and code it records (R23). -/
def refuseIncomplete (slot : CmdSlot) (code : Byte) (s : State) : State :=
  recordCommand slot code .incomplete (setFirstHalf none s)

/-- The slot offset of a window offset (R21). -/
def slotOffset (off : Nat) : Addr := BitVec.ofNat 32 (off / 16 * 16)

/-- A COMMAND write beat handed to the Command Intake at window offset `off` of entry `entry` (R21 to R23). -/
def commandBeat (entry : Fin 16) (off : Nat) (d : Data) (en : Enables) (s : State) : State :=
  let slot := slotOffset off
  if off % 16 = 0 then
    setFirstHalf (if en = 0xFF then some { entry := entry, slot := slot, data := d } else none) s
  else
    match s.intake.firstHalf with
    | none => refuseIncomplete { hostTag := 0, entry := entry, offset := slot } 0 s
    | some h =>
      if h.entry = entry ∧ h.slot = slot then
        if en = 0xFF then takeRecord entry slot h.data d s
        else refuseIncomplete { hostTag := dataByte h.data 1, entry := entry, offset := slot } (dataByte h.data 0) s
      else refuseIncomplete { hostTag := 0, entry := entry, offset := slot } 0 s

/-! ### The command rows -/

/-- A hand-over, when no reset input is low. -/
def handOver (f : State → State) (s : State) : Host.Outcome State Fault Refusal := .next (if s.busUp then f s else s)

/-- UNKNOWN (R25). -/
def execUnknown (slot : CmdSlot) (code : Byte) (s : State) : Host.Outcome State Fault Refusal :=
  if unknownCode code then handOver (takeCommand slot code unknownOp) s else .refused (.otherRow "UNKNOWN")

/-- ACK_EVENTS (R28). -/
def execAckEvents (slot : CmdSlot) (mask : Set16) (s : State) : Host.Outcome State Fault Refusal :=
  handOver (takeCommand slot 0x01 (ackOp mask)) s

/-- SONG_LOAD (R40, R41). -/
def execSongLoad (slot : CmdSlot) (args : SongLoadArgs) (s : State) : Host.Outcome State Fault Refusal :=
  handOver (takeCommand slot 0x10 (songLoadOp args)) s

/-- SONG_START (R42). -/
def execSongStart (slot : CmdSlot) (s : State) : Host.Outcome State Fault Refusal :=
  handOver (takeCommand slot 0x11 songStartOp) s

/-- SONG_SEEK (R51, R52). -/
def execSongSeek (slot : CmdSlot) (position : BitVec 32) (line : BitVec 16) (s : State) : Host.Outcome State Fault Refusal :=
  handOver (takeCommand slot 0x12 (songSeekOp position line)) s

/-- SONG_STOP (R53). -/
def execSongStop (slot : CmdSlot) (s : State) : Host.Outcome State Fault Refusal :=
  handOver (takeCommand slot 0x13 songStopOp) s

/-- SCORE_CLEAR_BOARD (R127). -/
def execScoreClearBoard (slot : CmdSlot) (s : State) : Host.Outcome State Fault Refusal :=
  handOver (takeCommand slot 0x20 clearBoardOp) s

/-- QUEUE_INSERT (R155). -/
def execQueueInsert (slot : CmdSlot) (args : InsertArgs) (s : State) : Host.Outcome State Fault Refusal :=
  handOver (takeCommand slot 0x30 (queueInsertOp args)) s

/-- QUEUE_REMOVE (R156). -/
def execQueueRemove (slot : CmdSlot) (tag : Byte) (s : State) : Host.Outcome State Fault Refusal :=
  handOver (takeCommand slot 0x31 (queueRemoveOp tag)) s

/-- QUEUE_MOVE (R157). -/
def execQueueMove (slot : CmdSlot) (tag position : Byte) (s : State) : Host.Outcome State Fault Refusal :=
  handOver (takeCommand slot 0x32 (queueMoveOp tag position)) s

/-- QUEUE_CONFIRM (R158). -/
def execQueueConfirm (slot : CmdSlot) (tag : Byte) (s : State) : Host.Outcome State Fault Refusal :=
  handOver (takeCommand slot 0x33 (queueConfirmOp tag)) s

/-- QUEUE_PIN (R159). -/
def execQueuePin (slot : CmdSlot) (tag setting : Byte) (s : State) : Host.Outcome State Fault Refusal :=
  handOver (takeCommand slot 0x34 (queuePinOp tag setting)) s

/-- HANDSET_RELEASE (R141). -/
def execHandsetRelease (slot : CmdSlot) (handset : Byte) (s : State) : Host.Outcome State Fault Refusal :=
  handOver (takeCommand slot 0x40 (handsetReleaseOp handset)) s

/-- ROOM_OPEN (R169). -/
def execRoomOpen (slot : CmdSlot) (seconds : BitVec 32) (s : State) : Host.Outcome State Fault Refusal :=
  handOver (takeCommand slot 0x50 (roomOpenOp seconds)) s

/-- ROOM_EXTEND (R170). -/
def execRoomExtend (slot : CmdSlot) (seconds : BitVec 32) (s : State) : Host.Outcome State Fault Refusal :=
  handOver (takeCommand slot 0x51 (roomExtendOp seconds)) s

/-- ROOM_CLOSE (R171). -/
def execRoomClose (slot : CmdSlot) (s : State) : Host.Outcome State Fault Refusal :=
  handOver (takeCommand slot 0x52 roomCloseOp) s

/-! ### The packet rows: the assembly is absent at the hand-over (R133) -/

/-- REQUEST (R144). -/
def execRequest (head : PacketHead) (fields : RequestFields) (s : State) : Host.Outcome State Fault Refusal :=
  handOver (fun s => requestPacket head fields (setAssembly none s)) s

/-- CANCEL (R146). -/
def execCancel (head : PacketHead) (song : BitVec 24) (s : State) : Host.Outcome State Fault Refusal :=
  handOver (fun s => cancelPacket head song (setAssembly none s)) s

/-- VOTE_SKIP (R147). -/
def execVoteSkip (head : PacketHead) (song : BitVec 24) (s : State) : Host.Outcome State Fault Refusal :=
  handOver (fun s => votePacket head song (setAssembly none s)) s

/-- QUERY (R149). -/
def execQuery (head : PacketHead) (s : State) : Host.Outcome State Fault Refusal :=
  handOver (fun s => queryPacket head (setAssembly none s)) s

/-- PACKET_UNKNOWN_KIND (R136). -/
def execPacketUnknownKind (head : PacketHead) (kind : Byte) (s : State) : Host.Outcome State Fault Refusal :=
  if kind.toNat < 5 then .refused (.otherRow "PACKET_UNKNOWN_KIND")
  else handOver (fun s => unknownPacket head (setAssembly none s)) s

end Sys2Proof.Machine
end

