-- ==== Sys2Proof/Machine/Bus.lean ====
section
/-! DEFINITION. The bus path (section 1.1) and the two resets (section 1.4): acceptance, the taking of write data,
forwarding, completion, and what leaves the U port. -/

namespace Sys2Proof.Machine

/-! ### Acceptance (R1, R4 to R11) -/

/-- The address of beat k: (start + 8k) modulo 2^32 (R1). -/
def beatAddr (r : BusRequest) (k : Nat) : Addr := r.addr + BitVec.ofNat 32 (8 * k)

/-- The last-blocked record overwritten, and GUARD_BLOCK for a guard (R8, R11). -/
def blockBeat (r : BusRequest) (a : Addr) (c : BlockCause) (s : State) : State :=
  raiseIf (decide (c = .guard)) .guardBlock
    { s with blocked := { valid := true, addr := a, tag := r.tag, dir := r.dir, cause := c } }

/-- The treatment of a read beat won by a role, with what the owning block does at acceptance; `s0` is the state before
the acceptance, from which views are answered (R9, R30). -/
def readBeat (s0 : State) (w : Win) (role : Role) (unit : Nat) (a : Addr) (s : State) : Treatment × State :=
  match role with
  | .scanout => (scanoutTreatment (w.offset a) (scanoutState (w.offset a) s), scanoutState (w.offset a) s)
  | .playback => (.snoop (.playback w), playbackBeat w a s)
  | .view => (.answer (viewBeat unit (w.offset a) s0), s)
  | .none | .strip | .timeline | .melody | .capture | .receive | .command => (.pass, s)

/-- The treatment of a write beat won by a role (R9). -/
def writeTreatment (w : Win) (role : Role) (unit : Nat) : Treatment :=
  match role with
  | .strip => .snoop (.strip w)
  | .timeline => .snoop (.timeline w)
  | .melody => .snoop (.melody w)
  | .capture => .snoop (.capture (Fin.ofNat 4 unit) w)
  | .receive => .snoop (.receive w)
  | .command => .snoop (.command w)
  | .view => .absorb
  | .none | .scanout | .playback => .pass

/-- One beat at acceptance: its treatment, and the state after it. -/
def acceptBeat (s0 : State) (r : BusRequest) (a : Addr) (s : State) : Treatment × State :=
  match matchBeat s0.anchorSel s0.anchor r.dir r.tag a with
  | .block c => (.block, blockBeat r a c s)
  | .pass => (.pass, s)
  | .anchorWrite => (.snoop .anchor, s)
  | .window w role unit =>
    match r.dir with
    | .read => readBeat s0 w role unit a s
    | .write => (writeTreatment w role unit, s)

/-- `n` beats from beat k on, in beat order. -/
def acceptBeats (s0 : State) (r : BusRequest) : Nat → Nat → State → List Beat × State
  | _, 0, s => ([], s)
  | k, n + 1, s =>
    let x := acceptBeat s0 r (beatAddr r k) s
    let rest := acceptBeats s0 r (k + 1) n x.2
    ({ addr := beatAddr r k, treatment := x.1 } :: rest.1, rest.2)

/-! ### Runs (R2, R10) -/

/-- The treatment lets the beat reach memory. -/
def Treatment.reachesMemory : Treatment → Bool
  | .pass | .snoop _ | .transform _ _ => true
  | .absorb | .answer _ | .block => false

/-- The run in progress, if any, as a list. -/
def openRun : Option (Nat × Nat) → List Run
  | none => []
  | some (first, count) => [{ first := first, count := count, status := .waiting }]

/-- The runs of the beats from beat k on, after a run in progress (first beat, count). A beat at address 0 begins a
run of its own, since its stretch would pass the wrap. -/
def runsFrom : Nat → Option (Nat × Nat) → List Beat → List Run
  | _, cur, [] => openRun cur
  | k, cur, b :: bs =>
    if b.treatment.reachesMemory then
      match cur with
      | some (first, count) =>
        if b.addr = 0 then openRun cur ++ runsFrom (k + 1) (some (k, 1)) bs else runsFrom (k + 1) (some (first, count + 1)) bs
      | none => runsFrom (k + 1) (some (k, 1)) bs
    else openRun cur ++ runsFrom (k + 1) none bs

/-! ### The completion list (R2) -/

def setBus (b : BusPath) (s : State) : State := { s with bus := b }

/-- All write data of a request has been taken; a read has none. -/
def Listed.dataTaken (l : Listed) : Bool :=
  match l.request.dir with
  | .read => true
  | .write => decide (l.beats.length ≤ l.taken.length)

/-- The newest request still waits for write data (R1). -/
def BusPath.awaitsData (b : BusPath) : Bool :=
  match b.list.getLast? with
  | some l => !l.dataTaken
  | none => false

/-- The U port can accept a request now: no reset, room in the list, no write data outstanding (R1, R2, R19, R20). -/
def State.canAccept (s : State) : Bool := s.busUp && decide (s.bus.list.length < 8) && !s.bus.awaitsData

/-- The listed form of a request just accepted. -/
def newListed (serial : Nat) (r : BusRequest) (beats : List Beat) : Listed :=
  { serial := serial, request := r, beats := beats, runs := runsFrom 0 none beats, taken := [] }

/-- The acceptance of a request (R1; the order inside it is DEDUCED, notes/assumptions/8.md). -/
def accept (r : BusRequest) (s : State) : State :=
  let x := acceptBeats s r 0 r.beats s
  setBus { x.2.bus with
    list := x.2.bus.list ++ [newListed x.2.bus.nextSerial r x.1], nextSerial := x.2.bus.nextSerial + 1 } x.2

/-- The request held in the handshake is accepted as soon as it can be (R2; notes/assumptions/6.md). -/
def acceptHeld (s : State) : State :=
  match s.bus.held with
  | some r => if s.canAccept then accept r (setBus { s.bus with held := none } s) else s
  | none => s

/-- A request presented at the U port: accepted, held in the handshake, or turned away while another is held or a reset
input is low (DESIGN CHOICE, notes/assumptions/6.md). -/
def presentRequest (r : BusRequest) (s : State) : State :=
  if s.bus.held = none then
    if s.canAccept then accept r s
    else if s.busUp then setBus { s.bus with held := some r } s
    else s
  else s

/-- REQUEST_ACCEPT (R1, R2). -/
def execRequestAccept (r : BusRequest) (s : State) : Host.Outcome State Fault Refusal :=
  if requestLegal r then .next (presentRequest r s) else .fault .busProtocol

/-! ### Write data (R1, R9) -/

/-- An anchor-page write beat (R12), with the presence expiries that a shortened timeout brings at once (R16, R138). -/
def anchorBeat (a : Addr) (d : Data) (en : Enables) (s : State) : State :=
  let s1 := shadowBeat (a.toNat % 4096) d en s
  if presenceMinutes s1.anchor.bytes = presenceMinutes s.anchor.bytes then s1 else expireAllPresence s1

/-- A snooped write beat handed to its block. A PLAYBACK window snoops reads only. -/
def deliver (dest : Dest) (a : Addr) (d : Data) (en : Enables) (s : State) : State :=
  match dest with
  | .anchor => anchorBeat a d en s
  | .strip w => stripBeat (w.offset a) d en s
  | .timeline w => timelineBeat (w.offset a) d en s
  | .melody w => melodyBeat (w.offset a) d en s
  | .capture c w => captureBeat c w a d en s
  | .playback _ => s
  | .receive w => receiveBeat w.index (w.offset a) d en s
  | .command w => commandBeat w.index (w.offset a) d en s

/-- A write beat under its treatment. -/
def deliverBeat (b : Beat) (d : Data) (en : Enables) (s : State) : State :=
  match b.treatment with
  | .snoop dest => deliver dest b.addr d en s
  | .pass | .absorb | .answer _ | .transform _ _ | .block => s

/-- The newest request with one more beat's data taken. -/
def BusPath.takeData (b : BusPath) (l : Listed) (d : Data) (en : Enables) : BusPath :=
  { b with list := b.list.dropLast ++ [{ l with taken := l.taken ++ [(d, en)] }] }

/-- The next write beat's data and byte enables are taken, and the beat is handed over (R1). -/
def takeBeat (d : Data) (en : Enables) (s : State) : State :=
  match s.bus.list.getLast? with
  | none => s
  | some l =>
    if l.dataTaken then s
    else
      match l.beats[l.taken.length]? with
      | none => s
      | some b => acceptHeld (deliverBeat b d en (setBus (s.bus.takeData l d en) s))

/-- WRITE_BEAT_DATA_TAKEN (R1); turned away when no write awaits data. -/
def execWriteBeatDataTaken (d : Data) (en : Enables) (s : State) : Host.Outcome State Fault Refusal :=
  .next (takeBeat d en s)

/-! ### The D port (R2, R3) -/

/-- The first waiting run of a request, by index. -/
def Listed.nextRun (l : Listed) : Option Nat := l.runs.findIdx? (fun r => decide (r.status = .waiting))

/-- The data of a run's beats can be sent: a read run has none, a write run's beats have been taken. -/
def Listed.runReady (l : Listed) (r : Run) : Bool :=
  match l.request.dir with
  | .read => true
  | .write => decide (r.first + r.count ≤ l.taken.length)

/-- The request that a run is at the D port (R2). -/
def Listed.toDPort (l : Listed) (k : Nat) (r : Run) : DPortRun :=
  { owner := some (l.serial, k), dir := l.request.dir, tag := l.request.tag, addr := beatAddr l.request r.first
    count := r.count, data := match l.request.dir with
      | .read => []
      | .write => (l.taken.drop r.first).take r.count }

/-- A run of a listed request given a new status. -/
def Listed.setRun (l : Listed) (k : Nat) (st : RunStatus) : Listed :=
  match l.runs[k]? with
  | some r => { l with runs := l.runs.set k { r with status := st } }
  | none => l

/-- The oldest waiting run of the list: its request's place, its index and itself. -/
def nextForward (list : List Listed) : Option (Nat × Nat × Run) :=
  match list.findIdx? (fun l => l.nextRun.isSome) with
  | none => none
  | some i =>
    match list[i]? with
    | none => none
    | some l =>
      match l.nextRun with
      | none => none
      | some k => (l.runs[k]?).map (fun r => (i, k, r))

/-- The next run leaves at the D port; turned away when none waits or its write data has not been taken (DEDUCED,
notes/assumptions/7.md). -/
def forwardRun (s : State) : State :=
  match nextForward s.bus.list with
  | none => s
  | some (i, k, r) =>
    match s.bus.list[i]? with
    | none => s
    | some l =>
      if l.runReady r then
        setBus { s.bus with list := s.bus.list.set i (l.setRun k .forwarded), dPort := s.bus.dPort ++ [l.toDPort k r] } s
      else s

/-- RUN_FORWARD (R2). -/
def execRunForward (s : State) : Host.Outcome State Fault Refusal := .next (forwardRun s)

/-- The number of data beats the memory gives for a D-port request. -/
def DPortRun.dataBeats (d : DPortRun) : Nat :=
  match d.dir with
  | .read => d.count
  | .write => 0

/-- A completed run recorded with its request, or discarded when a reset has abandoned it (R3, R19). -/
def BusPath.recordRun (b : BusPath) (owner : Option (Nat × Nat)) (fault : Bool) (data : List Data) : BusPath :=
  match owner with
  | none => b
  | some (serial, k) =>
    { b with list := b.list.map (fun l => if l.serial = serial then l.setRun k (.completed fault data) else l) }

/-- The memory completes the n-th outstanding D-port request; turned away when there is none or its data has another
length. -/
def completeRun (n : Nat) (fault : Bool) (data : List Data) (s : State) : State :=
  match s.bus.dPort[n]? with
  | none => s
  | some d =>
    if data.length = d.dataBeats then
      setBus ({ s.bus with dPort := s.bus.dPort.eraseIdx n }.recordRun d.owner fault data) s
    else s

/-- RUN_COMPLETION (R2, R3). -/
def execRunCompletion (n : Nat) (fault : Bool) (data : List Data) (s : State) : Host.Outcome State Fault Refusal :=
  .next (completeRun n fault data s)

/-! ### The completion (R2, R3) -/

/-- A run has been completed at the D port. -/
def Run.completed (r : Run) : Bool :=
  match r.status with
  | .completed _ _ => true
  | .waiting | .forwarded => false

/-- A run has been completed with FAULT. -/
def Run.faulted (r : Run) : Bool :=
  match r.status with
  | .completed f _ => f
  | .waiting | .forwarded => false

/-- The data that the memory gave for beat k, if a run holds it. -/
def Run.dataOf (r : Run) (k : Nat) : Option Data :=
  match r.status with
  | .completed _ data => if r.first ≤ k then data[k - r.first]? else none
  | .waiting | .forwarded => none

/-- The memory's data for beat k of a request. -/
def Listed.memoryData (l : Listed) (k : Nat) : Data := (l.runs.findSome? (fun r => r.dataOf k)).getD 0

/-- The data of beat k at the U port, by its treatment (R3, R10). -/
def Listed.beatData (l : Listed) (k : Nat) (t : Treatment) : Data :=
  match t with
  | .pass | .snoop _ => l.memoryData k
  | .transform p q => paintBeat p q (l.memoryData k)
  | .answer d => d
  | .absorb | .block => 0

/-- The request can complete: every run is completed and all write data is taken (R2). -/
def Listed.finished (l : Listed) : Bool := l.runs.all Run.completed && l.dataTaken

/-- FAULT for a BLOCKed beat or a run that the memory faulted (R3). -/
def Listed.fault (l : Listed) : Bool := l.beats.any (fun b => decide (b.treatment = .block)) || l.runs.any Run.faulted

/-- What leaves the U port for a finished request (R3). -/
def Listed.completion (l : Listed) : Completion :=
  { request := l.request
    data := match l.request.dir with
      | .read => (l.beats.zipIdx).map (fun x => l.beatData x.2 x.1.treatment)
      | .write => []
    fault := l.fault }

/-- The oldest request completes at the U port and leaves the list; turned away when it is not finished. -/
def leave (s : State) : State :=
  match s.bus.list with
  | [] => s
  | l :: rest =>
    if l.finished then acceptHeld (setBus { s.bus with list := rest, uPort := some l.completion } s) else s

/-- COMPLETION_LEAVE (R2, R3). -/
def execCompletionLeave (s : State) : Host.Outcome State Fault Refusal := .next (leave s)

/-! ### Resets (R19, R20) -/

/-- The bus path after a reset of either kind: list and handshake empty, D-port completions to come are discarded. -/
def BusPath.abandon (b : BusPath) : BusPath :=
  { b with list := [], held := none, dPort := b.dPort.map (fun d => { d with owner := none }) }

/-- RESET_N goes low: every block takes its cold-reset value (R19). The straps are sampled at the rise. -/
def coldResetState (s : State) : State :=
  { State.reset with
    resetLow := true, busResetLow := s.busResetLow, anchorSel := s.anchorSel, bus := s.bus.abandon, choices := s.choices
    pending := s.pending }

/-- COLD_RESET (R19). -/
def execColdReset (s : State) : Host.Outcome State Fault Refusal := .next (coldResetState s)

/-- RESET_N rises: the straps are sampled and the timebase starts at 0 (R19, R38). -/
def coldRelease (sel : BitVec 2) (s : State) : State :=
  if s.resetLow then { s with resetLow := false, anchorSel := sel, timebase := 0 } else s

/-- COLD_RESET_RELEASE (R19); turned away when RESET_N is high. -/
def execColdResetRelease (sel : BitVec 2) (s : State) : Host.Outcome State Fault Refusal := .next (coldRelease sel s)

/-- The compositor after a bus reset: both flags clear, both latches invalid (R76, R77). -/
def clearBands (s : State) : State :=
  { s with compositor := { s.compositor with inLyric := false, inGuide := false, lyricLatch := none, guideLatch := none } }

/-- What a bus reset does to the blocks (R20, R21, R55, R72, R76, R77, R100, R133). -/
def busResetBlocks (s : State) : State :=
  let s1 := setAssembly none (setFirstHalf none (setBus s.bus.abandon s))
  clearBands (restartFramers (freeStrips (if s1.clock.state.inProgress then endSong .reset s1 else s1)))

/-- BUS_RESET_N goes low (R20). With RESET_N low the cold-reset values stand and only the pin is recorded
(R20; notes/assumptions/13.md). -/
def busResetState (s : State) : State :=
  if s.busResetLow then s
  else if s.resetLow then { s with busResetLow := true }
  else { busResetBlocks s with busResetLow := true }

/-- BUS_RESET (R20). -/
def execBusReset (s : State) : Host.Outcome State Fault Refusal := .next (busResetState s)

/-- BUS_RESET_RELEASE (R20): BUS_RESET_N rises. -/
def execBusResetRelease (s : State) : Host.Outcome State Fault Refusal := .next { s with busResetLow := false }

end Sys2Proof.Machine
end

