-- ==== Sys2Proof/Machine/Timers.lean ====
section
/-! DEFINITION. The events that no command brings: a frame's completion, the postings, the expiries of the interval
timers (R38), and the timebase tick. An event whose condition does not hold is turned away (notes/assumptions/5.md). -/

namespace Sys2Proof.Machine

/-! ### Capture and scoring -/

/-- Some initiator's write beat at the address is won by entry i under role CAPTURE with the channel as its unit, by the
shadow as it stands (R94, R179). -/
def captureCanCome (c : Fin 4) (i : Fin 16) (a : Addr) (s : State) : Bool :=
  (List.finRange 16).any fun tag =>
    match matchBeat s.anchorSel s.anchor .write tag a with
    | .window w role unit => decide (w.index = i ∧ role = .capture ∧ Fin.ofNat 4 unit = c)
    | .block _ | .pass | .anchorWrite => false

/-- The continuous beat that completes a frame (R95, R98), when the framer expects a beat, holds 508 samples, and that beat
can come. Where it cannot, by R179, the framer keeps its frame and what it expects. -/
def frameBeat (c : Fin 4) (d : Data) (s : State) : State :=
  match s.framers[c].expected with
  | none => s
  | some (i, a) =>
    if s.framers[c].samples.length = 508 ∧ captureCanCome c i a s = true then appendBeat c (s.anchor.window i) a d s else s

/-- FRAME_COMPLETE (R98). -/
def execFrameComplete (c : Fin 4) (d : Data) (s : State) : Host.Outcome State Fault Refusal := handOver (frameBeat c d) s

/-- The posting of an estimate in flight; one whose completion falls in a bus reset waits for its end (R108, R109). -/
def postEstimate (c : Fin 4) (s : State) : State := if s.busResetLow then s else postFlight c s

/-- ESTIMATE_POSTING (R108, R116). -/
def execEstimatePosting (c : Fin 4) (s : State) : Host.Outcome State Fault Refusal := .next (postEstimate c s)

/-- The completion of the posting in progress, if there is one (R125). -/
def postResult (s : State) : State :=
  match s.score.posting with
  | some p => completePosting p.outcome s
  | none => s

/-- RESULT_POSTING_COMPLETE (R125). -/
def execResultPostingComplete (s : State) : Host.Outcome State Fault Refusal := .next (postResult s)

/-! ### Interval timers -/

/-- STALL_TIMER_EXPIRY (R50). -/
def execStallTimerExpiry (s : State) : Host.Outcome State Fault Refusal := .next (expireStall s)

/-- PRESENCE_EXPIRY (R138). -/
def execPresenceExpiry (h : Fin 16) (s : State) : Host.Outcome State Fault Refusal := .next (expirePresence h s)

/-- QUIET_INTERVAL_EXPIRY (R140). -/
def execQuietIntervalExpiry (h : Fin 16) (s : State) : Host.Outcome State Fault Refusal := .next (expireQuiet h s)

/-- ROOM_SECOND_EXPIRY (R168). -/
def execRoomSecondExpiry (s : State) : Host.Outcome State Fault Refusal := .next (expireSecond s)

/-! ### The tick (R38) -/

/-- The estimate of a channel has reached the bound of R108. -/
def estimateDue (s : State) (c : Fin 4) : Bool :=
  match s.flights[c] with
  | some f => !s.busResetLow && decide (Config.estimateBound ≤ elapsed s.timebase f.start)
  | none => false

/-- The posting has reached the bound of R124. -/
def postingDue (s : State) : Bool :=
  match s.score.posting with
  | some p => decide (Config.postingBound ≤ elapsed s.timebase p.start)
  | none => false

/-- The events that may not be put off past this tick. -/
def dueNow (s : State) : List Instr :=
  (if stallDue s then [.stallTimerExpiry] else []) ++
  ((List.finRange 16).filter (presenceDue s)).map .presenceExpiry ++
  ((List.finRange 16).filter (quietDue s)).map .quietIntervalExpiry ++
  (if secondDue s then [.roomSecondExpiry] else []) ++
  ((List.finRange 4).filter (estimateDue s)).map .estimatePosting ++
  (if postingDue s then [.resultPostingComplete] else [])

/-- One timebase tick; the count stands while RESET_N is low. -/
def tick (s : State) : State := if s.resetLow then s else { s with timebase := s.timebase + 1 }

/-- The due event taken next, by a free choice among those that fall together (notes/assumptions/3.md). -/
def chosenDue (s : State) : Option Instr :=
  (dueNow s)[Config.expiryChoice s.choices % (dueNow s).length]?

/-- The free choice counted. -/
def countChoice (s : State) : State := { s with choices := s.choices + 1 }

end Sys2Proof.Machine
end

