-- ==== Sys2Proof/Machine/Dispatch.lean ====
section
/-! DEFINITION. One arm for each row of spec/opcode_table.json, each a direct call of that command's meaning. -/

namespace Sys2Proof.Machine

def exec (i : Instr) (s : State) : Host.Outcome State Fault Refusal :=
  match i with
  | .requestAccept r => Sys2Proof.Machine.execRequestAccept r s
  | .writeBeatDataTaken data enables => Sys2Proof.Machine.execWriteBeatDataTaken data enables s
  | .runForward => Sys2Proof.Machine.execRunForward s
  | .runCompletion n fault data => Sys2Proof.Machine.execRunCompletion n fault data s
  | .completionLeave => Sys2Proof.Machine.execCompletionLeave s
  | .coldReset => Sys2Proof.Machine.execColdReset s
  | .coldResetRelease sel => Sys2Proof.Machine.execColdResetRelease sel s
  | .busReset => Sys2Proof.Machine.execBusReset s
  | .busResetRelease => Sys2Proof.Machine.execBusResetRelease s
  | .unknown slot code => Sys2Proof.Machine.execUnknown slot code s
  | .ackEvents slot mask => Sys2Proof.Machine.execAckEvents slot mask s
  | .songLoad slot args => Sys2Proof.Machine.execSongLoad slot args s
  | .songStart slot => Sys2Proof.Machine.execSongStart slot s
  | .songSeek slot position line => Sys2Proof.Machine.execSongSeek slot position line s
  | .songStop slot => Sys2Proof.Machine.execSongStop slot s
  | .scoreClearBoard slot => Sys2Proof.Machine.execScoreClearBoard slot s
  | .queueInsert slot args => Sys2Proof.Machine.execQueueInsert slot args s
  | .queueRemove slot tag => Sys2Proof.Machine.execQueueRemove slot tag s
  | .queueMove slot tag position => Sys2Proof.Machine.execQueueMove slot tag position s
  | .queueConfirm slot tag => Sys2Proof.Machine.execQueueConfirm slot tag s
  | .queuePin slot tag setting => Sys2Proof.Machine.execQueuePin slot tag setting s
  | .handsetRelease slot handset => Sys2Proof.Machine.execHandsetRelease slot handset s
  | .roomOpen slot seconds => Sys2Proof.Machine.execRoomOpen slot seconds s
  | .roomExtend slot seconds => Sys2Proof.Machine.execRoomExtend slot seconds s
  | .roomClose slot => Sys2Proof.Machine.execRoomClose slot s
  | .stallTimerExpiry => Sys2Proof.Machine.execStallTimerExpiry s
  | .frameComplete channel data => Sys2Proof.Machine.execFrameComplete channel data s
  | .estimatePosting channel => Sys2Proof.Machine.execEstimatePosting channel s
  | .resultPostingComplete => Sys2Proof.Machine.execResultPostingComplete s
  | .request head fields => Sys2Proof.Machine.execRequest head fields s
  | .cancel head song => Sys2Proof.Machine.execCancel head song s
  | .voteSkip head song => Sys2Proof.Machine.execVoteSkip head song s
  | .query head => Sys2Proof.Machine.execQuery head s
  | .packetUnknownKind head kind => Sys2Proof.Machine.execPacketUnknownKind head kind s
  | .presenceExpiry handset => Sys2Proof.Machine.execPresenceExpiry handset s
  | .quietIntervalExpiry handset => Sys2Proof.Machine.execQuietIntervalExpiry handset s
  | .roomSecondExpiry => Sys2Proof.Machine.execRoomSecondExpiry s

end Sys2Proof.Machine
end

