-- ==== Sys2Proof/Machine/Step.lean ====
section
/-! DEFINITION. One step: the command at the front of the queue, or, when none waits, one moment of time. -/

namespace Sys2Proof.Machine

/-- What happens when no command waits: an event that may not be put off, else one timebase tick (R38;
notes/assumptions/4.md). -/
def idle (s : State) : Host.Outcome State Fault Refusal :=
  match chosenDue s with
  | some c => exec c (countChoice s)
  | none => .next (tick s)

/-- The command at the front of the queue is taken and executed with the queue's rest. -/
def step (s : State) : Host.Outcome State Fault Refusal :=
  match s.pending with
  | [] => idle s
  | c :: rest => exec c { s with pending := rest }

/-- The command that a table word spells, put at the front of the queue. No row of this table gives bits. -/
def State.withFetchWord (s : State) (nbits w : Nat) : State :=
  match decodeTableWord nbits w with
  | some c => { s with pending := c :: s.pending }
  | none => s

end Sys2Proof.Machine
end

