-- ==== Sys2Proof/WellFormed.lean ====
section
/-! DEFINITION. The commands that can come: the bus never carries a misaligned start address or a beat count outside
1 to 16 (section 1.1), a slot offset is a multiple of 16 (R21), and UNKNOWN and PACKET_UNKNOWN_KIND carry the codes and
kinds that no other row names (R25, R136). Every other operand is legal at every value of its width. -/

namespace Sys2Proof

/-- A slot offset is 16 times a slot number (R21). -/
def CmdSlot.wellFormed (c : CmdSlot) : Bool := decide (c.offset.toNat % 16 = 0)

/-- The checks on a command's operands, one line for each shape of operand. -/
def Instr.wellFormed : Instr → Bool
  | .requestAccept r => Machine.requestLegal r
  | .writeBeatDataTaken _ _ => true
  | .runForward => true
  | .runCompletion _ _ data => decide (data.length ≤ 16)
  | .completionLeave => true
  | .coldReset => true
  | .coldResetRelease _ => true
  | .busReset => true
  | .busResetRelease => true
  | .unknown slot code => slot.wellFormed && Machine.unknownCode code
  | .ackEvents slot _ => slot.wellFormed
  | .songLoad slot _ => slot.wellFormed
  | .songStart slot => slot.wellFormed
  | .songSeek slot _ _ => slot.wellFormed
  | .songStop slot => slot.wellFormed
  | .scoreClearBoard slot => slot.wellFormed
  | .queueInsert slot _ => slot.wellFormed
  | .queueRemove slot _ => slot.wellFormed
  | .queueMove slot _ _ => slot.wellFormed
  | .queueConfirm slot _ => slot.wellFormed
  | .queuePin slot _ _ => slot.wellFormed
  | .handsetRelease slot _ => slot.wellFormed
  | .roomOpen slot _ => slot.wellFormed
  | .roomExtend slot _ => slot.wellFormed
  | .roomClose slot => slot.wellFormed
  | .stallTimerExpiry => true
  | .frameComplete _ _ => true
  | .estimatePosting _ => true
  | .resultPostingComplete => true
  | .request _ _ => true
  | .cancel _ _ => true
  | .voteSkip _ _ => true
  | .query _ => true
  | .packetUnknownKind _ kind => decide (5 ≤ kind.toNat)
  | .presenceExpiry _ => true
  | .quietIntervalExpiry _ => true
  | .roomSecondExpiry => true

end Sys2Proof
end

