-- ==== Sys2Proof/Safety.lean ====
section
/-! DEFINITION. What counts as a sound state of the part, block by block, and the terms in which the claims describe a
step. The claims' terms are written out from the manual's words, not through the operations of the model. -/

namespace Sys2Proof.Machine

/-! ### Fields of stored bytes (R172) -/

/-- The two, three and four bytes at a position as unsigned values, lowest byte first. -/
def word16 (m : Mem) (p : Nat) : Nat := (m.read p).toNat + 256 * (m.read (p + 1)).toNat
def word24 (m : Mem) (p : Nat) : Nat := word16 m p + 65536 * (m.read (p + 2)).toNat
def word32 (m : Mem) (p : Nat) : Nat := word24 m p + 16777216 * (m.read (p + 3)).toNat

/-! ### Effective globals (R15, R174) -/

/-- A field whose 0 gives the default and whose other values are brought into a range. -/
def rangedField (v dflt lo hi : Nat) : Nat := if v = 0 then dflt else max lo (min v hi)

/-- A biased duration: 0 gives the default, n gives n - 1 up to a bound. -/
def biasedField (v dflt hi : Nat) : Nat := if v = 0 then dflt else min (v - 1) hi

/-- Every effective global is the one that the table of R15 derives from its field. -/
def GlobalsAsRuled (m : Mem) : Prop :=
  let least := 8 * ((4 * frameWidth m + 7) / 8)
  let rate := word16 m 0x136
  memoryTop m = min (word16 m 0x100) 4095 ∧ (lockSet m = true ↔ m.read 0x102 ≠ 0) ∧
    frameWidth m = rangedField (word16 m 0x104) 1920 64 1920 ∧
    strideG m = (if word16 m 0x106 = 0 then least else max (max 256 least) (min (word16 m 0x106 / 8 * 8) 16384)) ∧
    bandTop m = min (word16 m 0x108) 2047 ∧ lineHeight m = rangedField (m.read 0x10A).toNat 48 8 96 ∧
    guideHeight m = rangedField (m.read 0x10B).toNat 0 8 64 ∧ guideTop m = min (word16 m 0x10C) 2047 ∧
    colourUnsung m = { blue := m.read 0x110, green := m.read 0x111, red := m.read 0x112 } ∧
    (sungColours m).a = { blue := m.read 0x114, green := m.read 0x115, red := m.read 0x116 } ∧
    (sungColours m).b = { blue := m.read 0x118, green := m.read 0x119, red := m.read 0x11A } ∧
    (sungColours m).both = { blue := m.read 0x11C, green := m.read 0x11D, red := m.read 0x11E } ∧
    (∀ c, c < 4 → markerColour m c =
      { blue := m.read (0x120 + 4 * c), green := m.read (0x121 + 4 * c), red := m.read (0x122 + 4 * c) }) ∧
    scrollDuration m = biasedField (word16 m 0x130) 300 1000 ∧ lineLead m = biasedField (word16 m 0x132) 1500 4000 ∧
    guideSpan m = rangedField (word16 m 0x134) 4000 1000 8000 ∧
    playbackRate m =
      (if rate = 0 then 48000 else if rate < 38050 then 32000 else if rate < 46050 then 44100 else 48000) ∧
    outputLatency m = min (word16 m 0x138) 16383 ∧ stallTimeoutG m = rangedField (word16 m 0x13A) 250 20 2000 ∧
    captureLatencyG m = biasedField (word16 m 0x13C) 40 500 ∧
    voicingThreshold m = rangedField (word16 m 0x13E) 400 1 32767 ∧
    onsetToleranceG m = biasedField (word16 m 0x140) 96 250 ∧ encoreThreshold m = min (word16 m 0x142) 10000 ∧
    (foldingOn m = true ↔ m.read 0x144 = 0) ∧ encoreSteps m = min (m.read 0x145).toNat 7 ∧
    handsetQuota m = rangedField (m.read 0x146).toNat 3 1 8 ∧
    standbyPercent m = rangedField (m.read 0x147).toNat 90 50 100 ∧
    presenceMinutes m = rangedField (m.read 0x148).toNat 15 1 60 ∧
    (defaultAction m = .allow ↔ m.read 0x149 = 0) ∧ (defaultAction m = .deny ↔ m.read 0x149 = 1) ∧
    (∀ n, n < 16 → (enableSet m).getLsbD n = !(word16 m 0x14A).testBit n) ∧
    ∀ n, n < 16 → (linePointer m n = .none ↔ m.read (0x150 + n) = 0) ∧ (linePointer m n = .attn0 ↔ m.read (0x150 + n) = 1)

/-! ### Terms of the claims -/

/-- The state after event number n has been raised (R34, R31): its flag is pending, and the status generation has
advanced when the flag was clear. -/
def signalled (n : Nat) (s : State) : State :=
  { s with events := s.events ||| BitVec.twoPow 16 n, statusGen := s.statusGen + (if s.events.getLsbD n then 0 else 1) }

/-- The events pending in `t` are those of `s` with the ones that `p` names, and the status generation has counted each that
was clear, and `records` writes of the last-command record (R31, R34). -/
def Raised (s t : State) (records : Nat) (p : Nat → Prop) : Prop :=
  (∀ n, n < 16 → (t.events.getLsbD n = true ↔ s.events.getLsbD n = true ∨ p n)) ∧
    t.statusGen = s.statusGen +
      BitVec.ofNat 32 (records + (List.range 16).countP (fun n => t.events.getLsbD n && !s.events.getLsbD n))

/-- The intake after a command of a slot that is DONE (R23, R26, R37). -/
def doneRecord (slot : CmdSlot) (code : Byte) : Intake :=
  { firstHalf := none
    last := { valid := true, hostTag := slot.hostTag, code := code, outcome := .done, entry := slot.entry, offset := slot.offset } }

/-- The state after a command of a slot has been taken with an outcome (R23, R26, R31, R37): no first half pending, the
record written, and COMMAND_REFUSED (event 2) raised for every outcome but DONE. -/
def afterCommand (slot : CmdSlot) (code : Byte) (o : CmdOutcome) (s : State) : State :=
  { s with
    intake :=
      { firstHalf := none
        last := { valid := true, hostTag := slot.hostTag, code := code, outcome := o, entry := slot.entry, offset := slot.offset } }
    events := if o = .done then s.events else s.events ||| 4
    statusGen := s.statusGen + 1 + (if o = .done ∨ s.events.getLsbD 2 = true then 0 else 1) }

/-- The queue list after a standby evaluation of `es` against the state as it stands (R161). -/
def evaluated (s : State) (es : List Entry) : List Entry := standbyWalk s.budget 0 es

/-- The queue `q` after a standby evaluation against `t`: the generation advances when an entry's state changes (R153, R161). -/
def evaluatedQueue (t : State) (q : Queue) : Queue :=
  { q with
    entries := evaluated t q.entries
    gen := q.gen + (if evaluated t q.entries = q.entries then 0 else 1) }

/-- The state after a change of the queue list to `es` and the standby evaluation that follows it: the queue generation
advances for the change and once more when the evaluation changes an entry's state, and QUEUE_CHANGED (event 14) is
raised (R153, R161). -/
def afterQueueChange (es : List Entry) (nextTag : Nat) (s : State) : State :=
  signalled 14
    { s with queue := { s.queue with
        entries := evaluated s es, nextTag := nextTag
        gen := s.queue.gen + (if evaluated s es = es then 1 else 2) } }

/-- The next beat of the open write is `b`, no request is held, and `u` is `s` with that beat's data taken (R1). -/
def TakesData (s : State) (b : Beat) (d : Data) (en : Enables) (u : State) : Prop :=
  ∃ l, s.bus.list.getLast? = some l ∧ l.request.dir = .write ∧ l.taken.length < l.beats.length ∧
    l.beats[l.taken.length]? = some b ∧ s.bus.held = none ∧
    u = { s with bus := { s.bus with list := s.bus.list.dropLast ++ [{ l with taken := l.taken ++ [(d, en)] }] } }

/-- The U port accepts request `r` now (section 1.1): a legal request, no reset input low, none held, room in the
completion list, and no write data outstanding (R1, R2, R19, R20). -/
def Acceptable (r : BusRequest) (s : State) : Prop :=
  r.addr.toNat % 8 = 0 ∧ 1 ≤ r.beats ∧ r.beats ≤ 16 ∧ s.resetLow = false ∧ s.busResetLow = false ∧ s.bus.held = none ∧
    s.bus.list.length < 8 ∧
    ∀ l, s.bus.list.getLast? = some l → l.request.dir = .write → l.beats.length ≤ l.taken.length

/-- What the treatment of a beat at address `a` of request `r`, accepted in state `s`, has to be (R4 to R10, R30). -/
def TreatedAsRuled (s : State) (r : BusRequest) (a : Addr) (t : Treatment) : Prop :=
  match matchBeat s.anchorSel s.anchor r.dir r.tag a with
  | .block _ => t = .block
  | .pass => t = .pass
  | .anchorWrite => t = .snoop .anchor
  | .window w role unit =>
    match r.dir, role with
    | .read, .view => t = .answer (viewBeat unit (w.offset a) s)
    | .read, .playback => t = .snoop (.playback w)
    | .read, .scanout => t = .pass ∨ ∃ p q, t = .transform p q
    | .read, _ => t = .pass
    | .write, .strip => t = .snoop (.strip w)
    | .write, .timeline => t = .snoop (.timeline w)
    | .write, .melody => t = .snoop (.melody w)
    | .write, .capture => t = .snoop (.capture (Fin.ofNat 4 unit) w)
    | .write, .receive => t = .snoop (.receive w)
    | .write, .command => t = .snoop (.command w)
    | .write, .view => t = .absorb
    | .write, _ => t = .pass

/-- A CAPTURE beat of channel c can come at address `a` under entry i: for some initiator, the checks of a write beat give it
to that entry, as it stands, with role CAPTURE and unit c (R94, R179). -/
def CaptureCanCome (s : State) (c : Fin 4) (i : Fin 16) (a : Addr) : Prop :=
  ∃ tag unit, matchBeat s.anchorSel s.anchor .write tag a = .window (s.anchor.window i) .capture unit ∧ Fin.ofNat 4 unit = c

/-- The match hands a read beat to the Lyric Compositor or the Song Clock. -/
def Match.reachesBlock : Match → Bool
  | .window _ .scanout _ | .window _ .playback _ => true
  | .block _ | .pass | .anchorWrite | .window _ _ _ => false

/-- The row that a record of code `code` is, with its arguments where R175 puts them: bytes 0 to 7 in the first beat,
8 to 15 in the second. -/
def recordRow (slot : CmdSlot) (code : Byte) (b0 b1 : Data) : Instr :=
  if code = 0x01 then .ackEvents slot (b0.extractLsb' 16 16)
  else if code = 0x10 then
    .songLoad slot
      { source := b0.extractLsb' 16 8, partMap := b0.extractLsb' 24 8, duration := b0.extractLsb' 32 32
        song := b1.extractLsb' 0 24, difficulty := b1.extractLsb' 24 8, key := b1.extractLsb' 32 8
        floorNote := b1.extractLsb' 40 8, ceilNote := b1.extractLsb' 48 8 }
  else if code = 0x11 then .songStart slot
  else if code = 0x12 then .songSeek slot (b0.extractLsb' 32 32) (b1.extractLsb' 0 16)
  else if code = 0x13 then .songStop slot
  else if code = 0x20 then .scoreClearBoard slot
  else if code = 0x30 then
    .queueInsert slot
      { song := b0.extractLsb' 16 24, position := b0.extractLsb' 40 8, duration := b0.extractLsb' 48 16
        difficulty := b1.extractLsb' 0 8, key := b1.extractLsb' 8 8, duet := b1.extractLsb' 16 8, pin := b1.extractLsb' 24 8 }
  else if code = 0x31 then .queueRemove slot (b0.extractLsb' 16 8)
  else if code = 0x32 then .queueMove slot (b0.extractLsb' 16 8) (b0.extractLsb' 24 8)
  else if code = 0x33 then .queueConfirm slot (b0.extractLsb' 16 8)
  else if code = 0x34 then .queuePin slot (b0.extractLsb' 16 8) (b0.extractLsb' 24 8)
  else if code = 0x40 then .handsetRelease slot (b0.extractLsb' 16 8)
  else if code = 0x50 then .roomOpen slot (b0.extractLsb' 32 32)
  else if code = 0x51 then .roomExtend slot (b0.extractLsb' 32 32)
  else if code = 0x52 then .roomClose slot
  else .unknown slot code

/-- The chain after SONG_LOAD or SONG_SEEK, from `y` to `z`: SHOWN buffers FREE, the chain empty, no scroll, no line-late
mark, the next expected line given; everything else of the buffers and the timeline kept (R70, R71). -/
def ChainCleared (y z : Lyrics) (line : Nat) : Prop :=
  z = { y with strips := z.strips, chain := [], nextLine := line, scroll := none, lateMark := none } ∧
    ∀ b : Fin 4, z.strips[b] =
      { y.strips[b] with state := (if (y.strips[b]).state = .shown then .free else (y.strips[b]).state) }

/-- What a SONG_LOAD that is DONE leaves, for the now-playing record `n` and the queue list `es` that the take leaves
(R41, R70, R85, R99, R114, R137, R163): the queue generation counts the take and an evaluation that changes a state
(R153), the handset generation each vote withdrawn (R31, R142), and QUEUE_CHANGED (event 14) is pending, the status
generation counting it when it was clear and the last-command record (R31). -/
def SongLoaded (s t : State) (slot : CmdSlot) (a : SongLoadArgs) (n : NowPlaying) (es : List Entry) : Prop :=
  t.clock =
      { state := .loaded, postingDone := true, frames := 0, expected := none, stall := none
        duration := a.duration.toNat, song := n.song, source := n.source, rate := playbackRate s.anchor.bytes
        latency := outputLatency s.anchor.bytes, stallTimeout := stallTimeoutG s.anchor.bytes
        captureLatency := captureLatencyG s.anchor.bytes, voicing := voicingThreshold s.anchor.bytes
        folding := foldingOn s.anchor.bytes, onsetTolerance := onsetToleranceG s.anchor.bytes, endOutcome := .none
        epoch := s.clock.epoch + 1 } ∧
    t.queue =
      { entries := evaluated t es, nextTag := s.queue.nextTag, nowPlaying := some n
        gen := s.queue.gen + (if evaluated t es = es then 1 else 2) } ∧
    t.compositor = { s.compositor with floorNote := a.floorNote.toNat, ceilNote := a.ceilNote.toNat, key := n.key } ∧
    ChainCleared s.lyrics t.lyrics 0 ∧
    (∀ c : Fin 4, t.framers[c] = { s.framers[c] with expected := none, samples := [] }) ∧
    (∀ c : Fin 4, t.score.channels[c] =
      { Channel.reset with
        part := partOfBits (a.partMap.toNat / 4 ^ c.val % 4), difficulty := n.difficulty, key := n.key
        latest := (s.score.channels[c]).latest }) ∧
    (∀ h : Fin 16, t.handsets.records[h] = { s.handsets.records[h] with vote := false }) ∧
    t.handsets.votePassed = false ∧
    t.handsets.gen = s.handsets.gen + BitVec.ofNat 32 (s.handsets.records.toList.countP (fun r => r.vote)) ∧
    t.score = { s.score with channels := t.score.channels } ∧
    t.events = s.events ||| BitVec.twoPow 16 14 ∧
    t.statusGen = s.statusGen + (if s.events.getLsbD 14 = true then 1 else 2) ∧
    t.intake = doneRecord slot 0x10 ∧
    t = { s with
      clock := t.clock, queue := t.queue, compositor := t.compositor, lyrics := t.lyrics, framers := t.framers
      score := t.score, handsets := t.handsets, events := t.events, statusGen := t.statusGen, intake := t.intake }

/-! ### Estimates (R101 to R107) -/

/-- x[i] of a frame. -/
def sampleRuled (x : List (BitVec 16)) (i : Nat) : Int := (x.getD i 0).toInt

/-- D(L): the sum, over i from 0 to 255, of |x[i] - x[i + L]| (R102). -/
def differenceRuled (x : List (BitVec 16)) (lag : Nat) : Nat :=
  ((List.range 256).map fun i => (sampleRuled x i - sampleRuled x (i + lag)).natAbs).sum

/-- S: the sum, over i from 0 to 255, of |x[i]| + |x[i + L]| (R104). -/
def boundRuled (x : List (BitVec 16)) (lag : Nat) : Nat :=
  ((List.range 256).map fun i => (sampleRuled x i).natAbs + (sampleRuled x (i + lag)).natAbs).sum

/-- A lag from 16 to 248 meets the three conditions of R103, with D_min the least of D(16) to D(248). -/
def LagFits (x : List (BitVec 16)) (lag : Nat) : Prop :=
  let d := differenceRuled x
  (16 ≤ lag ∧ lag ≤ 248) ∧ d lag ≤ d (lag - 1) ∧ d lag ≤ d (lag + 1) ∧ ∀ k, 16 ≤ k → k ≤ 248 → 8 * d lag ≤ 9 * d k

/-- The picked lag: the smallest that meets them (R103). -/
def PickedLag (x : List (BitVec 16)) (lag : Nat) : Prop := LagFits x lag ∧ ∀ k, k < lag → ¬ LagFits x k

/-- off16 for a picked lag: trunc(8 a / b), clamped to -8 to +8, 0 for b of 0 or below (R105). -/
def offsetRuled (x : List (BitVec 16)) (lag : Nat) : Int :=
  let d := fun k => (differenceRuled x k : Int)
  let a := d (lag - 1) - d (lag + 1)
  let b := d (lag - 1) - 2 * d lag + d (lag + 1)
  if b ≤ 0 then 0 else max (-8) (min 8 (Int.tdiv (8 * a) b))

/-- P is the integer nearest to 48 log2(f / f0) for f = 256,000 / lag_q and f0 = 440 × 2^(-33/12), a half going to the
lower, clamped to 0 to 192 (R106). P is k or more, for k from 1 to 192, exactly when the scale is above k - 1/2. That is
(f / f0)^96 > 2^(2 k - 1), and f / f0 = 6400 × 2^(33/12) / (11 lag_q), so with whole numbers
6400^96 × 2^265 > 4^k × (11 lag_q)^96. -/
def PitchRuled (lagQ p : Nat) : Prop :=
  p ≤ 192 ∧ ∀ k, 1 ≤ k → k ≤ 192 → (k ≤ p ↔ 4 ^ k * (11 * lagQ) ^ 96 < 6400 ^ 96 * 2 ^ 265)

/-! ### Strips, the chain and the wipe (R60, R63, R65 to R68, R80, R81, R176) -/

/-- The line number of a buffer's header. -/
def stripLine (y : Lyrics) (b : Fin 4) : Nat := word16 (y.strips[b]).bytes 0

/-- The first byte of the j-th slot of a buffer's range: from the first-timeline-slot field, wrapping from 511 to 0. -/
def rangeSlot (y : Lyrics) (b : Fin 4) (j : Nat) : Nat := 16 * ((word16 (y.strips[b]).bytes 2 + j) % 512)

/-- The start time of that slot. -/
def slotStart (y : Lyrics) (b : Fin 4) (j : Nat) : Nat := word32 y.timeline (rangeSlot y b j + 4)

/-- That slot is in the range, valid, and carries the line number: it is a syllable of the line (R63). -/
def IsSyllable (y : Lyrics) (b : Fin 4) (j : Nat) : Prop :=
  j < ((y.strips[b]).bytes.read 4).toNat ∧ y.timeline.read (rangeSlot y b j) ≠ 0 ∧
    word16 y.timeline (rangeSlot y b j + 2) = stripLine y b

/-- The six conditions of R60, none of which fails. -/
def StripPasses (y : Lyrics) (k : Fin 4) : Prop :=
  let byte := fun i => ((y.strips[k]).bytes.read i).toNat
  stripLine y k ≤ 4095 ∧ (1 ≤ byte 4 ∧ byte 4 ≤ 64) ∧ (byte 5 = 1 ∨ byte 5 = 2 ∨ byte 5 = 3) ∧
    (∀ j, j < byte 4 → IsSyllable y k j) ∧ (∀ j, j + 1 < byte 4 → slotStart y k j ≤ slotStart y k (j + 1)) ∧
    ∀ b : Fin 4, b ≠ k → (y.strips[b]).state = .ready ∨ (y.strips[b]).state = .shown → stripLine y b ≠ stripLine y k

/-- `e` is the end of a line: the end of its last syllable in range order, 0 when it has none (R63). -/
def LineEnd (y : Lyrics) (b : Fin 4) (e : Nat) : Prop :=
  (∀ j, IsSyllable y b j → (∀ i, j < i → ¬ IsSyllable y b i) → e = word32 y.timeline (rangeSlot y b j + 8)) ∧
    ((∀ j, ¬ IsSyllable y b j) → e = 0)

/-- Buffer `b` is READY and carries the next expected line, the lowest-numbered such buffer (no two carry one line). -/
def CarriesNext (y : Lyrics) (b : Fin 4) : Prop :=
  ((y.strips[b]).state = .ready ∧ stripLine y b = y.nextLine) ∧
    ∀ a : Fin 4, a < b → ¬ ((y.strips[a]).state = .ready ∧ stripLine y a = y.nextLine)

/-- Buffer `b` carries the next expected line and its show time is at or below `t` (R65, R67). -/
def Qualifies (y : Lyrics) (t : Nat) (b : Fin 4) : Prop := CarriesNext y b ∧ word32 (y.strips[b]).bytes 8 ≤ t

/-- Buffer `b` SHOWN at the bottom of the chain, the next expected line incremented up to 4096 (R65, R67). -/
def admitLine (y : Lyrics) (b : Fin 4) : Lyrics :=
  { y with
    strips := setAt y.strips b { state := .shown, bytes := (y.strips[b]).bytes }
    chain := y.chain ++ [b], nextLine := min (y.nextLine + 1) 4096 }

/-- One test of fill (R65). -/
def FillStep (t : Nat) (y z : Lyrics) : Prop :=
  let fills := y.chain.length < 2 ∧ y.scroll = none ∧ ∀ b, y.chain.getLast? = some b → (y.strips[b]).bytes.read 6 = 0
  (∀ b, fills → Qualifies y t b → z = admitLine y b) ∧ ((¬ fills ∨ ∀ b, ¬ Qualifies y t b) → z = y)

/-- Lead warning is due (R66). -/
def LeadDue (t lead : Nat) (y : Lyrics) : Prop :=
  ∃ k l e, y.chain = [k, l] ∧ y.scroll = none ∧ (y.strips[l]).bytes.read 6 = 0 ∧ (∀ b, ¬ CarriesNext y b) ∧
    LineEnd y k e ∧ (e : Int) - (lead : Int) ≤ (t : Int) ∧ y.lateMark ≠ some y.nextLine

/-- Lead warning (R66). -/
def LeadStep (t lead : Nat) (y z : Lyrics) : Prop :=
  (LeadDue t lead y → z = { y with lateMark := some y.nextLine }) ∧ (¬ LeadDue t lead y → z = y)

/-- Scroll start (R67). -/
def ScrollStartStep (t : Nat) (y z : Lyrics) : Prop :=
  (∀ k l e, y.chain = [k, l] → y.scroll = none → LineEnd y k e → e ≤ t →
    ((y.strips[l]).bytes.read 6 ≠ 0 → z = { y with scroll := some { start := t, blankBelow := true } }) ∧
    ((y.strips[l]).bytes.read 6 = 0 →
      (∀ b, Qualifies y t b → z = { admitLine y b with scroll := some { start := t, blankBelow := false } }) ∧
      ((∀ b, ¬ Qualifies y t b) → z = y))) ∧
  ((∀ k l e, y.chain = [k, l] → y.scroll = none → LineEnd y k e → t < e) → z = y)

/-- Scroll completion (R68). A scroll in progress always has a top line. -/
def ScrollEndStep (t duration : Nat) (y z : Lyrics) : Prop :=
  (∀ r k rest, y.scroll = some r → (duration : Int) ≤ (t : Int) - (r.start : Int) → y.chain = k :: rest →
    z = { y with
      strips := setAt y.strips k { state := .free, bytes := (y.strips[k]).bytes }, chain := rest, scroll := none }) ∧
  ((∀ r, y.scroll = some r → (t : Int) - (r.start : Int) < (duration : Int)) → z = y)

/-- The four steps of chain sequencing in order, with fill tested twice; `late` says whether LINE_LATE is raised (R64). -/
def Sequenced (t lead duration : Nat) (y z : Lyrics) (late : Prop) : Prop :=
  ∃ y1 y2 y3 y4, FillStep t y y1 ∧ FillStep t y1 y2 ∧ LeadStep t lead y2 y3 ∧ ScrollStartStep t y3 y4 ∧
    ScrollEndStep t duration y4 z ∧ (late ↔ LeadDue t lead y2)

/-- `w` is the wipe of the line in buffer `b` at time `t` (R80, with the cases of R81 first). -/
def WipeAsRuled (y : Lyrics) (b : Fin 4) (t w : Nat) : Prop :=
  let stop := fun j => word32 y.timeline (rangeSlot y b j + 8)
  let left := fun j => word16 y.timeline (rangeSlot y b j + 12)
  let right := fun j => word16 y.timeline (rangeSlot y b j + 14)
  ((∀ j, ¬ IsSyllable y b j) → w = 0) ∧
    ∀ first, IsSyllable y b first → (∀ i, i < first → ¬ IsSyllable y b i) →
      (t < slotStart y b first → w = left first) ∧
      (slotStart y b first ≤ t → ∀ j, IsSyllable y b j → slotStart y b j ≤ t →
        (∀ i, j < i → IsSyllable y b i → t < slotStart y b i) →
        (right j < left j → w = left j) ∧ (left j ≤ right j → stop j ≤ t → w = right j) ∧
        (left j ≤ right j → t < stop j →
          w = left j + (right j - left j) * (t - slotStart y b j) / (stop j - slotStart y b j)))

/-- The song time of a band latch (R78); no latch is taken in IDLE. -/
def latchTimeRuled (c : SongClock) : Nat :=
  if c.state = .loaded ∨ c.state = .armed then 0 else if c.state = .ended then c.duration else c.position

/-- A lyric latch taken in state `s`, for the chain that sequencing leaves in `y` (R79, R82). -/
def LyricLatched (s : State) (y : Lyrics) (l : LyricLatch) : Prop :=
  let m := s.anchor.bytes
  let t := latchTimeRuled s.clock
  l.time = t ∧ l.width = frameWidth m ∧ l.stride = strideG m ∧ l.bandTop = bandTop m ∧ l.height = lineHeight m ∧
    l.unsung = colourUnsung m ∧ l.sung = sungColours m ∧ l.scrollDuration = scrollDuration m ∧ l.lineLead = lineLead m ∧
    l.lines.map ShownLine.buffer = y.chain ∧
    (∀ x ∈ l.lines, WipeAsRuled y x.buffer t x.wipe ∧ ((y.strips[x.buffer]).bytes.read 5 = 1 → x.part = .a) ∧
      ((y.strips[x.buffer]).bytes.read 5 = 2 → x.part = .b) ∧ ((y.strips[x.buffer]).bytes.read 5 = 3 → x.part = .both)) ∧
    (y.scroll = none → l.blankBelow = false ∧ l.offset = 0) ∧
    ∀ r, y.scroll = some r → l.blankBelow = r.blankBelow ∧
      (scrollDuration m = 0 → l.offset = lineHeight m) ∧
      (scrollDuration m ≠ 0 → r.start ≤ t → l.offset = min (lineHeight m) (lineHeight m * (t - r.start) / scrollDuration m))

/-! ### Notes (R88, R90, R112, R115, R117) -/

/-- The start and end of melody slot i, and its note byte. -/
def noteStart (m : Mem) (i : Nat) : Nat := word24 m (8 * i + 2)
def noteStop (m : Mem) (i : Nat) : Nat := word24 m (8 * i + 5)
def noteByte (m : Mem) (i : Nat) : Nat := (m.read (8 * i + 1)).toNat

/-- Slot i holds a note and it is no REST (R112). -/
def holdsNote (m : Mem) (i : Nat) : Bool :=
  decide ((m.read (8 * i)).toNat % 16 ≠ 0) && decide (36 ≤ noteByte m i) && decide (noteByte m i ≤ 84)

/-- The part of slot i: 1 A, 2 B, every other code BOTH (R112, R176). -/
def notePart (m : Mem) (i : Nat) : Part :=
  if (m.read (8 * i)).toNat / 16 = 1 then .a else if (m.read (8 * i)).toNat / 16 = 2 then .b else .both

/-- Slot i is a note that a channel of part `p` matches and that contains the time `t` (R115, R117). -/
def NoteContains (m : Mem) (p : Part) (t i : Nat) : Prop :=
  i < 1024 ∧ holdsNote m i = true ∧
    (p = .a ∧ notePart m i ≠ .b ∨ p = .b ∧ notePart m i ≠ .a ∨ p = .both) ∧ noteStart m i ≤ t ∧ t < noteStop m i

/-- Slot i is the active note at `t`: the lowest-indexed that contains it (R117). -/
def ActiveNote (m : Mem) (p : Part) (t i : Nat) : Prop := NoteContains m p t i ∧ ∀ j, j < i → ¬ NoteContains m p t j

/-- Slot i lies in the window of song time that the guide band shows (R88). -/
def noteShown (m : Mem) (t span i : Nat) : Bool :=
  holdsNote m i && decide (noteStart m i < noteStop m i) &&
    decide ((noteStart m i : Int) < (t : Int) - ((span / 4 : Nat) : Int) + (span : Int)) &&
    decide ((t : Int) - ((span / 4 : Nat) : Int) < (noteStop m i : Int))

/-- A guide latch taken in state `s` (R85, R88, R90). -/
def GuideLatched (s : State) (g : GuideLatch) : Prop :=
  let m := s.anchor.bytes
  let t := latchTimeRuled s.clock
  let x := s.compositor
  let lanes := x.ceilNote + 1 - x.floorNote
  let marked := fun c : Fin 4 =>
    decide ((s.score.channels[c]).part ≠ .off) && (s.score.channels[c]).latest.voiced &&
      decide ((s.score.channels[c]).latest.position ≤ t) && decide (t - (s.score.channels[c]).latest.position ≤ 64)
  g.time = t ∧ g.width = frameWidth m ∧ g.stride = strideG m ∧ g.bandTop = bandTop m ∧ g.height = lineHeight m ∧
    g.guideTop = guideTop m ∧ g.guideHeight = guideHeight m ∧ g.sung = sungColours m ∧
    (∀ c : Fin 4, g.markerColours[c] = markerColour m c.val) ∧ g.span = guideSpan m ∧ g.floorNote = x.floorNote ∧
    g.ceilNote = x.ceilNote ∧ g.key = x.key ∧ g.nowColumn = frameWidth m / 4 ∧ g.lanes = lanes ∧
    g.laneHeight = max 1 (guideHeight m / lanes) ∧
    g.notes = (((List.range 1024).filter (noteShown s.melody t (guideSpan m))).take 32).map (fun i =>
      { start := noteStart s.melody i, stop := noteStop s.melody i, note := noteByte s.melody i, part := notePart s.melody i }) ∧
    g.markers = ((List.finRange 4).filter marked).map (fun c =>
      { channel := c
        lane := (max 0 (min ((lanes : Int) - 1)
          (((36 + ((s.score.channels[c]).latest.pitch + 2) / 4 : Nat) : Int) - (x.floorNote : Int)))).toNat })

/-! ### Scores (R118 to R122) -/

/-- `q` is the integer nearest e / 48, a quotient half-way between two taking the one nearer zero (R119). -/
def NearestOctaves (e q : Int) : Prop :=
  ∀ p : Int, (e - 48 * q).natAbs ≤ (e - 48 * p).natAbs ∧
    ((e - 48 * p).natAbs = (e - 48 * q).natAbs → q.natAbs ≤ p.natAbs)

/-- The limits for the credits 4, 3, 2 and 1 (R120). -/
def creditLimits : Difficulty → Nat × Nat × Nat × Nat
  | .easy => (2, 4, 6, 10)
  | .normal => (1, 2, 4, 8)
  | .hard => (0, 1, 2, 4)

/-- The first of the credits whose limit an error meets, or 0 (R120). -/
def creditRuled (d : Difficulty) (err : Nat) : Nat :=
  if err ≤ (creditLimits d).1 then 4 else if err ≤ (creditLimits d).2.1 then 3
  else if err ≤ (creditLimits d).2.2.1 then 2 else if err ≤ (creditLimits d).2.2.2 then 1 else 0

/-- `k` is the credit of an estimate against a note for a channel (R119, R120): 0 when it is unvoiced, else by the error
from the target, folded when folding is on in the estimate. -/
def CreditAsRuled (c : Channel) (note : Nat) (e : Estimate) (k : Nat) : Prop :=
  let target : Int := 4 * (max 36 (min 84 ((note : Int) + c.key)) - 36)
  (e.voiced = false → k = 0) ∧
    (e.voiced = true → e.folding = false → k = creditRuled c.difficulty ((e.pitch : Int) - target).natAbs) ∧
    (e.voiced = true → e.folding = true → ∀ q, NearestOctaves ((e.pitch : Int) - target) q →
      k = creditRuled c.difficulty ((e.pitch : Int) - target - 48 * q).natAbs)

/-- The score of a channel's totals in hundredths (R122). -/
def scoreRuled (frames credits onsetsHit onsetsCounted : Nat) : Nat :=
  if frames = 0 then 0
  else if onsetsCounted = 0 then 10000 * credits / (4 * frames)
  else 8000 * credits / (4 * frames) + 2000 * onsetsHit / onsetsCounted

/-- A channel after its open note `o` has been closed under an onset tolerance (R121). -/
def closedRuled (tolerance : Nat) (c : Channel) (o : OpenNote) : Channel :=
  let judged := o.start + 64 ≤ o.stop
  let onTime := o.onset.any (fun t => decide (t ≤ o.start + tolerance)) = true
  let counted := c.onsetsCounted + (if judged then 1 else 0)
  let hit := c.onsetsHit + (if judged ∧ onTime then 1 else 0)
  { c with
    notesClosed := c.notesClosed + 1
    notesHit := c.notesHit + (if 50 ≤ 100 * o.credits / (4 * o.frames) then 1 else 0)
    onsetsCounted := counted, onsetsHit := hit, running := scoreRuled c.frames c.credits hit counted, openNote := none }

/-- A channel after a frame of time `tf` and credit `k` has been counted into the open note, or into a fresh one, of the
active slot, whose start and end are taken anew (R118, R120). -/
def countedRuled (c : Channel) (m : Mem) (slot tf k : Nat) : Channel :=
  let o := c.openNote.getD { slot := slot, start := 0, stop := 0, frames := 0, credits := 0, onset := none }
  { c with
    openNote := some
      { slot := slot, start := noteStart m slot, stop := noteStop m slot, frames := o.frames + 1, credits := o.credits + k
        onset := if o.onset = none ∧ 2 ≤ k then some tf else o.onset }
    frames := c.frames + 1, credits := c.credits + k }

/-- The final of a channel with its flag (R122). -/
def finalRuled (c : Channel) : Final :=
  if c.part = .off then { score := 0, flag := .off }
  else if c.frames = 0 then { score := 0, flag := .noVoice }
  else { score := scoreRuled c.frames c.credits c.onsetsHit c.onsetsCounted, flag := .none }

/-- From `s` to `t` every open note has been closed and counted, and the score generation has counted each (R31, R121). -/
def NotesClosed (s t : State) : Prop :=
  t.score.gen = s.score.gen + BitVec.ofNat 32 (s.score.channels.toList.countP (fun c => c.openNote.isSome)) ∧
    ∀ c : Fin 4, ((s.score.channels[c]).openNote = none → t.score.channels[c] = s.score.channels[c]) ∧
      ∀ n, (s.score.channels[c]).openNote = some n →
        t.score.channels[c] = closedRuled s.clock.onsetTolerance (s.score.channels[c]) n

/-- `t` is `s` after an end of the song with outcome `o`, as far as the clock, the scores, the queue and the events go
(R48, R121, R124, R164): every open note closed and counted, the posting begun, the queue evaluated, SONG_ENDED (event 3)
raised, and QUEUE_CHANGED (event 14) when the evaluation changes a state. `records` counts the commands recorded. -/
def SongEnded (o : EndOutcome) (records : Nat) (s t : State) : Prop :=
  t.clock = { s.clock with
      state := .ended, endOutcome := o, postingDone := false, stall := none, expected := none, epoch := s.clock.epoch + 1 } ∧
    t.score = { s.score with
      channels := t.score.channels, posting := some { outcome := o, start := s.timebase }, gen := t.score.gen } ∧
    NotesClosed s t ∧ t.queue = evaluatedQueue t s.queue ∧
    Raised s t records (fun n => n = 3 ∨ n = 14 ∧ evaluated t s.queue.entries ≠ s.queue.entries)

/-! ### The views, field by field: offset, size and value (R32, R33, R177, R178) -/

/-- The code of a value: its place in the list of values that the manual gives in the order of their codes. -/
def codeIn {α : Type} [DecidableEq α] (values : List α) (x : α) : Nat := values.idxOf x

def songStateCode : SongState → Nat := codeIn [.idle, .loaded, .armed, .running, .stalled, .ended]
def endCode : EndOutcome → Nat := codeIn [.none, .complete, .stopped, .reset]
def outcomeCode : CmdOutcome → Nat := codeIn
  [.done, .refusedState, .refusedArgument, .refusedFull, .refusedNotFound, .refusedDuplicate, .refusedEmpty, .incomplete, .unknown]
def partCodeOf : Part → Nat := codeIn [.off, .a, .b, .both]
def difficultyCode : Difficulty → Nat := codeIn [.easy, .normal, .hard]
def stripStateCode : StripState → Nat := codeIn [.free, .loading, .ready, .shown]
def roomCode : RoomState → Nat := codeIn [.closed, .opened, .overtime]
def causeCode : Cause → Nat := codeIn [.none, .quiet, .noLag, .noisy]
def flagCode : FinalFlag → Nat := codeIn [.none, .noVoice, .off]
def handsetCode : HandsetState → Nat := codeIn [.absent, .active, .held, .barred]
def sourceCode : Source → Nat := codeIn [.queue, .direct]
def replyCode : ReplyOutcome → Nat := codeIn
  [.none, .accepted, .standby, .waiting, .merged, .cancelled, .voted, .queryOk, .denied, .queueFull, .roomClosed, .barred, .quotaFull,
    .notFound, .voteStale, .fieldError]

def requesterCode : Requester → Nat
  | .handset h => h.val
  | .staff => 0x10
  | .none => 0xFF

def faultCode : WindowFault → Nat
  | .entry i => i.val
  | .none => 0x80
  | .locked => 0xFF

/-- 1 for a condition that holds, 0 for one that does not. -/
def flag (p : Prop) [Decidable p] : Nat := if p then 1 else 0

/-- A key shift in 8 bits, two's complement (R172). -/
def keyCode (k : Int) : Nat := (BitVec.ofInt 8 k).toNat

/-- The status view's fields below 080h. -/
def statusFields (s : State) : List (Nat × Nat × Nat) :=
  let y := s.lyrics
  let chainLine := fun j => match y.chain[j]? with
    | some b => stripLine y b
    | none => 0
  [(0x000, 4, s.statusGen.toNat), (0x004, 2, s.events.toNat), (0x006, 2, s.enables.toNat), (0x008, 1, s.highestPending),
    (0x009, 1, flag (s.attn0 = true) + 2 * flag (s.attn1 = true)), (0x00A, 6, 0), (0x010, 1, songStateCode s.clock.state),
    (0x011, 1, endCode s.clock.endOutcome), (0x012, 2, 0), (0x014, 4, s.clock.position), (0x018, 4, s.clock.song),
    (0x01C, 4, s.clock.duration), (0x020, 2, s.anchor.live.toNat), (0x022, 1, flag (s.anchor.bytes.read 0x102 ≠ 0)),
    (0x023, 1, faultCode s.anchor.lastFault), (0x024, 1, flag (s.blocked.valid = true)),
    (0x025, 1, flag (s.blocked.dir = .write)), (0x026, 1, flag (s.blocked.cause = .guard)), (0x027, 1, s.blocked.tag.val),
    (0x028, 4, s.blocked.addr.toNat), (0x02C, 4, 0), (0x030, 1, flag (s.intake.last.valid = true)),
    (0x031, 1, s.intake.last.hostTag.toNat), (0x032, 1, s.intake.last.code.toNat), (0x033, 1, outcomeCode s.intake.last.outcome),
    (0x034, 1, s.intake.last.entry.val), (0x035, 3, 0), (0x038, 4, s.intake.last.offset.toNat), (0x03C, 4, 0),
    (0x040, 1, roomCode s.room.state), (0x041, 3, 0), (0x044, 4, s.room.remaining), (0x048, 2, s.parser.garbled), (0x04A, 6, 0),
    (0x05C, 4, 0), (0x068, 1, y.chain.length), (0x069, 1, flag (y.scroll ≠ none)), (0x06A, 2, y.nextLine),
    (0x06C, 2, chainLine 0), (0x06E, 2, chainLine 1), (0x070, 2, chainLine 2), (0x072, 14, 0)] ++
  (List.finRange 4).flatMap (fun c =>
    [(0x050 + 2 * c.val, 2, (s.framers[c]).gaps), (0x058 + c.val, 1, stripStateCode (y.strips[c]).state),
      (0x060 + 2 * c.val, 2, if (y.strips[c]).state = .free then 0 else stripLine y c)])

/-- The fields of a colour: blue, green, red and its reserved byte. -/
def colourFields (at' : Nat) (c : Colour) : List (Nat × Nat × Nat) :=
  [(at', 1, c.blue.toNat), (at' + 1, 1, c.green.toNat), (at' + 2, 1, c.red.toNat), (at' + 3, 1, 0)]

/-- The status view's effective globals and filter records, from 080h. -/
def globalFields (m : Mem) : List (Nat × Nat × Nat) :=
  [(0x080, 2, memoryTop m), (0x082, 1, flag (m.read 0x102 ≠ 0)), (0x083, 1, 0), (0x084, 2, frameWidth m), (0x086, 2, strideG m),
    (0x088, 2, bandTop m), (0x08A, 1, lineHeight m), (0x08B, 1, guideHeight m), (0x08C, 2, guideTop m), (0x08E, 2, 0),
    (0x0B0, 2, scrollDuration m), (0x0B2, 2, lineLead m), (0x0B4, 2, guideSpan m), (0x0B6, 2, playbackRate m),
    (0x0B8, 2, outputLatency m), (0x0BA, 2, stallTimeoutG m), (0x0BC, 2, captureLatencyG m), (0x0BE, 2, voicingThreshold m),
    (0x0C0, 2, onsetToleranceG m), (0x0C2, 2, encoreThreshold m), (0x0C4, 1, flag (m.read 0x144 ≠ 0)), (0x0C5, 1, encoreSteps m),
    (0x0C6, 1, handsetQuota m), (0x0C7, 1, standbyPercent m), (0x0C8, 1, presenceMinutes m),
    (0x0C9, 1, min (m.read 0x149).toNat 2), (0x0CA, 2, word16 m 0x14A), (0x0CC, 4, 0), (0x0E0, 32, 0)] ++
  colourFields 0x090 (colourUnsung m) ++ colourFields 0x094 (sungColours m).a ++ colourFields 0x098 (sungColours m).b ++
  colourFields 0x09C (sungColours m).both ++ (List.range 4).flatMap (fun c => colourFields (0x0A0 + 4 * c) (markerColour m c)) ++
  (List.range 16).map (fun n => (0x0D0 + n, 1, min (m.read (0x150 + n)).toNat 2)) ++
  (List.range 8).flatMap (fun f =>
    let a := 0x180 + 16 * f
    let v := 0x100 + 16 * f
    [(v, 3, word24 m a % 2 ^ 20), (v + 3, 1, 0), (v + 4, 3, word24 m (a + 4) % 2 ^ 20), (v + 7, 1, 0), (v + 8, 2, word16 m (a + 8)),
      (v + 10, 1, min (m.read (a + 10)).toNat 2), (v + 11, 1, flag (m.read (a + 11) ≠ 0)), (v + 12, 4, 0)])

/-- The entry layout of R178 at an offset, with the state code given. -/
def entryFields (at' tag : Nat) (r : Requester) (state : Nat) (d : Difficulty) (key : Int) (duet pin : Bool)
    (repeats song duration : Nat) : List (Nat × Nat × Nat) :=
  [(at', 1, tag), (at' + 1, 1, requesterCode r), (at' + 2, 1, state), (at' + 3, 1, difficultyCode d), (at' + 4, 1, keyCode key),
    (at' + 5, 1, flag (duet = true) + 2 * flag (pin = true)), (at' + 6, 1, repeats), (at' + 7, 1, 0), (at' + 8, 4, song),
    (at' + 12, 2, duration), (at' + 14, 2, 0)]

/-- The queue view's fields. -/
def queueFields (q : Queue) : List (Nat × Nat × Nat) :=
  [(0x000, 4, q.gen.toNat), (0x004, 4, q.entries.length)] ++
  (match q.nowPlaying with
  | none => [(0x008, 24, 0)]
  | some n => [(0x008, 1, 1), (0x009, 1, sourceCode n.source), (0x00A, 6, 0)] ++
      entryFields 0x010 n.tag n.requester 0 n.difficulty n.key n.duet n.pin n.repeats n.song n.duration) ++
  (List.range 48).flatMap (fun n =>
    match q.entries[n]? with
    | none => [(0x020 + 16 * n, 16, 0)]
    | some e => entryFields (0x020 + 16 * n) e.tag e.requester (codeIn [.queued, .standby, .waiting] e.state + 1) e.difficulty e.key
        e.duet e.pin e.repeats e.song e.duration)

/-- The fields of channel c's record in the score view. -/
def channelFields (c : Nat) (x : Channel) : List (Nat × Nat × Nat) :=
  let a := 0x008 + 64 * c
  let e := x.latest
  [(a, 1, partCodeOf x.part), (a + 0x01, 1, difficultyCode x.difficulty), (a + 0x02, 1, keyCode x.key)] ++
  (match x.openNote with
  | none => [(a + 0x03, 25, 0)]
  | some n =>
    [(a + 0x03, 1, 1), (a + 0x04, 2, n.slot), (a + 0x06, 2, n.frames), (a + 0x08, 4, n.start), (a + 0x0C, 4, n.stop),
      (a + 0x10, 4, n.credits), (a + 0x14, 1, flag (n.onset ≠ none)), (a + 0x15, 3, 0), (a + 0x18, 4, n.onset.getD 0)]) ++
  [(a + 0x1C, 2, x.frames), (a + 0x1E, 2, 0), (a + 0x20, 4, x.credits), (a + 0x24, 2, x.notesClosed), (a + 0x26, 2, x.notesHit),
    (a + 0x28, 2, x.onsetsCounted), (a + 0x2A, 2, x.onsetsHit), (a + 0x2C, 2, x.running), (a + 0x2E, 2, 0),
    (a + 0x30, 1, flag (e.voiced = true)), (a + 0x31, 1, causeCode e.cause), (a + 0x32, 1, songStateCode e.state),
    (a + 0x33, 1, flag (e.folding = true)), (a + 0x34, 2, e.energy), (a + 0x36, 2, e.lag), (a + 0x38, 1, e.pitch), (a + 0x39, 1, 0),
    (a + 0x3A, 2, e.epoch.toNat), (a + 0x3C, 4, e.position)]

/-- The score view's fields. -/
def scoreFields (x : Score) : List (Nat × Nat × Nat) :=
  let r := x.result
  [(0x000, 4, x.gen.toNat), (0x004, 4, 0), (0x108, 1, flag (r.valid = true)), (0x109, 1, sourceCode r.source),
    (0x10A, 1, endCode r.outcome), (0x10B, 1, match r.lead with
      | some c => c.val
      | none => 0xFF),
    (0x10C, 1, requesterCode r.requester), (0x10D, 3, 0), (0x110, 4, r.song), (0x120, 8, 0)] ++
  (List.finRange 4).flatMap (fun c =>
    channelFields c.val x.channels[c] ++
      [(0x114 + 2 * c.val, 2, (r.finals[c]).score), (0x11C + c.val, 1, flagCode (r.finals[c]).flag)]) ++
  (List.finRange 16).flatMap (fun h =>
    let a := 0x128 + 8 * h.val
    [(a, 2, (x.board[h]).completed), (a + 2, 2, (x.board[h]).last), (a + 4, 2, (x.board[h]).best), (a + 6, 2, 0)])

/-- The handset view's fields. -/
def handsetFields (x : Handsets) : List (Nat × Nat × Nat) :=
  [(0x000, 4, x.gen.toNat), (0x004, 4, 0)] ++
  (List.finRange 16).flatMap (fun h =>
    let a := 0x008 + 16 * h.val
    let r : Handset := x.records[h]
    [(a, 1, handsetCode r.state), (a + 1, 1, flag (r.lastSequence ≠ none)), (a + 2, 1, (r.lastSequence.getD 0).toNat),
      (a + 3, 1, flag (r.lowBattery = true)), (a + 4, 1, flag (r.vote = true)), (a + 5, 1, r.replyCount.toNat), (a + 6, 2, r.errors),
      (a + 8, 1, r.reply.sequence.toNat), (a + 9, 1, replyCode r.reply.outcome), (a + 10, 1, r.reply.tag), (a + 11, 1, r.reply.position),
      (a + 12, 1, r.reply.pendingCount), (a + 13, 3, 0)])

/-! ### Commands and packets as rows -/

/-- The slot and code of a row that hands over a command. -/
def commandOf : Instr → Option (CmdSlot × Byte)
  | .unknown slot code => some (slot, code)
  | .ackEvents slot _ => some (slot, 0x01)
  | .songLoad slot _ => some (slot, 0x10)
  | .songStart slot => some (slot, 0x11)
  | .songSeek slot _ _ => some (slot, 0x12)
  | .songStop slot => some (slot, 0x13)
  | .scoreClearBoard slot => some (slot, 0x20)
  | .queueInsert slot _ => some (slot, 0x30)
  | .queueRemove slot _ => some (slot, 0x31)
  | .queueMove slot _ _ => some (slot, 0x32)
  | .queueConfirm slot _ => some (slot, 0x33)
  | .queuePin slot _ _ => some (slot, 0x34)
  | .handsetRelease slot _ => some (slot, 0x40)
  | .roomOpen slot _ => some (slot, 0x50)
  | .roomExtend slot _ => some (slot, 0x51)
  | .roomClose slot => some (slot, 0x52)
  | .requestAccept _ | .writeBeatDataTaken _ _ | .runForward | .runCompletion _ _ _ | .completionLeave | .coldReset
  | .coldResetRelease _ | .busReset | .busResetRelease | .stallTimerExpiry | .frameComplete _ _ | .estimatePosting _
  | .resultPostingComplete | .request _ _ | .cancel _ _ | .voteSkip _ _ | .query _ | .packetUnknownKind _ _
  | .presenceExpiry _ | .quietIntervalExpiry _ | .roomSecondExpiry => none

/-- The row that a check-valid packet of four beats is, with its fields where R176 puts them. -/
def packetRow (b0 b1 : Data) : Instr :=
  let head : PacketHead :=
    { handset := Fin.ofNat 16 (b0.extractLsb' 8 8).toNat, sequence := b0.extractLsb' 16 8, flags := b0.extractLsb' 24 8 }
  let kind := b0.extractLsb' 0 8
  if kind = 1 then
    .request head
      { song := b0.extractLsb' 32 24, difficulty := b0.extractLsb' 56 8, key := b1.extractLsb' 0 8
        duration := b1.extractLsb' 8 16, duet := b1.extractLsb' 24 8 }
  else if kind = 2 then .cancel head (b0.extractLsb' 32 24)
  else if kind = 3 then .voteSkip head (b0.extractLsb' 32 24)
  else if kind = 4 then .query head
  else .packetUnknownKind head kind

/-- The head of a row that hands over a packet. -/
def packetOf : Instr → Option PacketHead
  | .request head _ | .cancel head _ | .voteSkip head _ | .query head | .packetUnknownKind head _ => some head
  | .requestAccept _ | .writeBeatDataTaken _ _ | .runForward | .runCompletion _ _ _ | .completionLeave | .coldReset
  | .coldResetRelease _ | .busReset | .busResetRelease | .unknown _ _ | .ackEvents _ _ | .songLoad _ _ | .songStart _
  | .songSeek _ _ _ | .songStop _ | .scoreClearBoard _ | .queueInsert _ _ | .queueRemove _ _ | .queueMove _ _ _
  | .queueConfirm _ _ | .queuePin _ _ _ | .handsetRelease _ _ | .roomOpen _ _ | .roomExtend _ _ | .roomClose _
  | .stallTimerExpiry | .frameComplete _ _ | .estimatePosting _ | .resultPostingComplete | .presenceExpiry _
  | .quietIntervalExpiry _ | .roomSecondExpiry => none

/-- The reply fields after a packet (R142): sequence, outcome, tag and position as given, the pending count of the queue
as the packet leaves it, the reply count advanced, and REPLY_READY (event 13) pending. -/
def Replied (s t : State) (head : PacketHead) (o : ReplyOutcome) (tag position : Nat) : Prop :=
  (t.handsets.records[head.handset]).reply =
      { sequence := head.sequence, outcome := o, tag := tag, position := position
        pendingCount := t.queue.pendingCount head.handset } ∧
    (t.handsets.records[head.handset]).replyCount = (s.handsets.records[head.handset]).replyCount + 1 ∧
    t.events.getLsbD 13 = true

/-- How many of the fields that the handset generation counts differ: state, error counter, last sequence, low-battery flag,
vote membership (R31, R142). -/
def countedChanges (x y : Handset) : Nat :=
  (if x.state = y.state then 0 else 1) + (if x.errors = y.errors then 0 else 1) +
    (if x.lastSequence = y.lastSequence then 0 else 1) + (if x.lowBattery = y.lowBattery then 0 else 1) +
    (if x.vote = y.vote then 0 else 1)

/-- A record after ROOM_OPEN or ROOM_CLOSE: the last column of R137. -/
def vacated (r : Handset) : Handset :=
  { r with state := .absent, errors := 0, lastSequence := none, presence := none, quietCount := 0, quiet := none, vote := false }

/-- The Handset Table after ROOM_OPEN or ROOM_CLOSE: every record vacated, the vote-passed flag kept, the handset generation
advanced once for each handset and each counted field that changes (R137, R142). -/
def HandsetsVacated (s t : State) : Prop :=
  (∀ h : Fin 16, t.handsets.records[h] = vacated s.handsets.records[h]) ∧ t.handsets.votePassed = s.handsets.votePassed ∧
    t.handsets.gen = s.handsets.gen +
      BitVec.ofNat 32 (s.handsets.records.toList.map (fun r => countedChanges r (vacated r))).sum

/-- The queue emptied, a change when it held an entry; the now-playing record and the next tag are kept (R151, R153). -/
def emptiedQueue (q : Queue) : Queue := { q with entries := [], gen := q.gen + (if q.entries = [] then 0 else 1) }

/-- The votes reach half of the active count, rounded up, that count taken as 1 when it is 0 (R148). -/
def SkipPasses (t : State) : Prop :=
  let active := t.handsets.records.toList.countP (fun r => decide (r.state = .active ∨ r.state = .held))
  (max 1 active + 1) / 2 ≤ t.handsets.records.toList.countP (fun r => r.vote)

/-- The skip test of R148 from `s` to `t`, with the counts that `t` leaves; `ran` says whether a vote was added or the
active count changed. It runs in ARMED, RUNNING and STALLED, and SKIP_VOTE_PASSED is event 11. -/
def SkipTested (s t : State) (ran : Prop) : Prop :=
  (t.handsets.votePassed = true ↔ s.handsets.votePassed = true ∨
      ran ∧ (s.clock.state = .armed ∨ s.clock.state = .running ∨ s.clock.state = .stalled) ∧ SkipPasses t) ∧
    (s.handsets.votePassed = false → t.handsets.votePassed = true → t.events.getLsbD 11 = true)

/-- The error counter after an outcome, before it is stopped at 256 (R139). -/
def errorsRuled (o : ReplyOutcome) (e : Nat) : Nat :=
  match o with
  | .accepted | .standby | .waiting | .merged | .cancelled | .voted | .queryOk => e - 1
  | .quotaFull | .notFound | .voteStale => e + 1
  | .fieldError => e + 8
  | .denied | .queueFull | .roomClosed | .barred | .none => e

/-- The state of a handset after step 4 of R135. -/
def Handset.arrived (r : Handset) : HandsetState :=
  if r.state = .absent then (if 128 ≤ r.errors then .held else .active) else r.state

/-- The end of steps 7 and 8 of R135 for the outcome that the reply in `t` holds: the sequence stored, the counter changed
by the outcome and the state following it (R139), the presence timer restarted or, on barring, stopped with the quiet timer
started, and the skip test (R148). `voted` says that a vote was added. The handset generation counts the reply, the arrival
of an ABSENT handset, and each counted field that changes after it (R142). The events raised are REPLY_READY (13),
HANDSET_CHANGE (12) with any change of state, SKIP_VOTE_PASSED (11), REQUEST_WAITING (10) with outcome WAITING, and
QUEUE_CHANGED (14) with any change of the queue. -/
def Concluded (s t : State) (head : PacketHead) (voted : Prop) : Prop :=
  let r := s.handsets.records[head.handset]
  let q := t.handsets.records[head.handset]
  let e := errorsRuled q.reply.outcome r.errors
  q.errors = min e 256 ∧ q.state = (if 256 ≤ e then .barred else if 128 ≤ e then .held else .active) ∧
    q.lastSequence = some head.sequence ∧
    (e < 256 → q.presence = some s.timebase ∧ q.quiet = r.quiet ∧ q.quietCount = r.quietCount) ∧
    (256 ≤ e → q.presence = none ∧ q.quiet = some s.timebase ∧ q.quietCount = 0) ∧
    SkipTested s t (voted ∨ r.state = .absent ∨ q.state = .barred) ∧
    t.handsets.gen = s.handsets.gen +
      BitVec.ofNat 32 (1 + (if r.state = .absent then 1 else 0) + countedChanges { r with state := r.arrived } q) ∧
    Raised s t 0 (fun n => n = 13 ∨ n = 12 ∧ (r.state = .absent ∨ q.state ≠ r.arrived) ∨
      n = 11 ∧ s.handsets.votePassed = false ∧ t.handsets.votePassed = true ∨ n = 10 ∧ q.reply.outcome = .waiting ∨
      n = 14 ∧ t.queue.gen ≠ s.queue.gen)

/-- Filter record f matches a song from a handset (R143, R173): its enable flag is 1, song and value agree on every bit of
the mask, and the handset is in its set. -/
def FilterMatches (m : Mem) (song : Nat) (h : Fin 16) (f : Nat) : Prop :=
  let a := 0x180 + 16 * f
  m.read (a + 11) ≠ 0 ∧
    (∀ i, i < 20 → (word24 m (a + 4)).testBit i = true → song.testBit i = (word24 m a).testBit i) ∧
    (word16 m (a + 8)).testBit h.val = true

/-- 0 ALLOW, 1 DENY, every other code WAIT (R15, R17). -/
def actionRuled (code : Byte) : Action := if code = 0 then .allow else if code = 1 then .deny else .wait

/-- The action for a song from a handset (R143): the lowest-numbered matching filter's, or the default. -/
def FiltersGive (m : Mem) (song : Nat) (h : Fin 16) (action : Action) : Prop :=
  (∀ f, f < 8 → FilterMatches m song h f → (∀ g, g < f → ¬ FilterMatches m song h g) →
    action = actionRuled (m.read (0x180 + 16 * f + 10))) ∧
    ((∀ f, f < 8 → ¬ FilterMatches m song h f) → action = actionRuled (m.read 0x149))

/-- `out` is `l` with `x` placed so that it becomes the n-th; at the tail for n = 0 or n beyond the length (R155, R157). -/
def PlacedAt (l : List Entry) (n : Nat) (x : Entry) (out : List Entry) : Prop :=
  (n = 0 ∨ l.length < n → out = l ++ [x]) ∧
    ∀ pre post, l = pre ++ post → post ≠ [] → n = pre.length + 1 → out = pre ++ x :: post

/-- The packet reaches step 7 of R135: the room is not CLOSED, the handset is not BARRED, and it is no repeat. -/
def Handled (s : State) (head : PacketHead) : Prop :=
  s.busUp = true ∧ s.room.state ≠ .closed ∧ (s.handsets.records[head.handset]).state ≠ .barred ∧
    (s.handsets.records[head.handset]).lastSequence ≠ some head.sequence

/-- What every packet leaves alone: all but the events, the assembly, the Handset Table and the queue, and in the table
every other handset's record. -/
def PacketFrame (s t : State) (h : Fin 16) : Prop :=
  t = { s with
      events := t.events, statusGen := t.statusGen, parser := { s.parser with assembly := none }
      handsets := t.handsets, queue := t.queue } ∧
    ∀ k : Fin 16, k ≠ h → t.handsets.records[k] = s.handsets.records[k]

/-- The state that a counter gives a handset that was ACTIVE or HELD (R139). -/
def stateOfErrors (e : Nat) : HandsetState := if 256 ≤ e then .barred else if 128 ≤ e then .held else .active

/-! ### Sound states -/

/-- Every byte store has its canonical form. -/
def MemoriesCanonical (s : State) : Prop :=
  s.anchor.bytes.wf = true ∧ s.melody.wf = true ∧ s.lyrics.timeline.wf = true ∧
    ∀ b : Fin 4, (s.lyrics.strips[b]).bytes.wf = true

/-- A handset's state follows its error counter, and its timers run in the states the manual names (R137 to R140). -/
def Handset.Sound (r : Handset) : Prop :=
  r.errors ≤ 256 ∧ (r.state = .barred ↔ r.errors = 256) ∧ (r.state = .held → 128 ≤ r.errors) ∧
    (r.state = .active → r.errors < 128) ∧ (r.presence.isSome = true ↔ (r.state = .active ∨ r.state = .held)) ∧
    (r.quiet.isSome = true ↔ r.state = .barred) ∧ r.quietCount < 128 ∧ (r.state ≠ .barred → r.quietCount = 0)

def HandsetsSound (s : State) : Prop := ∀ h : Fin 16, (s.handsets.records[h]).Sound

/-- The tag of the now-playing record, if there is one. -/
def Queue.playingTag (q : Queue) : List Nat :=
  match q.nowPlaying with
  | some n => [n.tag]
  | none => []

/-- At most 48 entries, no song twice, every tag 1 to 255 and no tag twice, the now-playing record counted (R150, R151). -/
def QueueSound (s : State) : Prop :=
  s.queue.entries.length ≤ 48 ∧ (s.queue.entries.map Entry.song).Nodup ∧
    (s.queue.entries.map Entry.tag ++ s.queue.playingTag).Nodup ∧
    (∀ e ∈ s.queue.entries, 1 ≤ e.tag ∧ e.tag ≤ 255) ∧ 1 ≤ s.queue.nextTag ∧ s.queue.nextTag ≤ 255

/-- The chain lists the SHOWN buffers, each once; a third line or a missing one comes only with a scroll (R57, R64). -/
def ChainSound (s : State) : Prop :=
  s.lyrics.chain.Nodup ∧ (∀ b : Fin 4, b ∈ s.lyrics.chain ↔ (s.lyrics.strips[b]).state = .shown) ∧
    (s.lyrics.scroll = none → s.lyrics.chain.length ≤ 2) ∧
    (s.lyrics.scroll ≠ none → 2 ≤ s.lyrics.chain.length ∧ s.lyrics.chain.length ≤ 3) ∧ s.lyrics.nextLine ≤ 4096

/-- A request of the completion list holds one treatment a beat and no more data than beats. -/
def Listed.Sound (l : Listed) : Prop := l.beats.length = l.request.beats ∧ l.taken.length ≤ l.beats.length

/-- At most 8 requests, only the newest of which may wait for data (R1, R2); and the serials, by which a forwarded run
names its request, are distinct and were all given out. -/
def BusSound (s : State) : Prop :=
  s.bus.list.length ≤ 8 ∧ (∀ l ∈ s.bus.list, l.Sound) ∧ (∀ l ∈ s.bus.list.dropLast, l.dataTaken = true) ∧
    (s.bus.list.map Listed.serial).Nodup ∧ (∀ l ∈ s.bus.list, l.serial < s.bus.nextSerial) ∧
    ∀ d ∈ s.bus.dPort, ∀ serial k, d.owner = some (serial, k) → serial < s.bus.nextSerial

/-- The clock's fields by song state (R39 to R52): the stall timer runs in RUNNING alone, nothing has been read before
the clock runs, the position of a running clock is below the duration, and a posting is in progress only in ENDED. -/
def ClockSound (s : State) : Prop :=
  (s.clock.stall.isSome = true ↔ s.clock.state = .running) ∧
    (s.clock.state = .idle ∨ s.clock.state = .loaded ∨ s.clock.state = .armed → s.clock.frames = 0 ∧ s.clock.expected = none) ∧
    (s.clock.state = .running ∨ s.clock.state = .stalled → s.clock.countedMs < s.clock.duration) ∧
    (s.clock.state ≠ .idle → 1 ≤ s.clock.duration ∧ s.clock.duration ≤ 1800000) ∧
    (s.clock.rate = 32000 ∨ s.clock.rate = 44100 ∨ s.clock.rate = 48000) ∧
    (s.clock.postingDone = false → s.clock.state = .ended) ∧
    (s.score.posting.isSome = true ↔ s.clock.postingDone = false) ∧
    (s.queue.nowPlaying.isSome = true ↔ (s.clock.state.inProgress = true ∨ s.clock.postingDone = false))

/-- The counts of a channel agree, and its score is a score (R113, R118 to R122). -/
def Channel.Sound (c : Channel) : Prop :=
  c.frames ≤ 65535 ∧ c.credits ≤ 4 * c.frames ∧ c.notesHit ≤ c.notesClosed ∧ c.onsetsHit ≤ c.onsetsCounted ∧
    c.onsetsCounted ≤ c.notesClosed ∧ c.running ≤ 10000 ∧
    (∀ o, c.openNote = some o → 1 ≤ o.frames ∧ o.credits ≤ 4 * o.frames)

/-- Channels, finals and the scoreboard stay in their ranges (R122, R126). -/
def ScoresSound (s : State) : Prop :=
  (∀ c : Fin 4, (s.score.channels[c]).Sound) ∧ (∀ c : Fin 4, (s.score.result.finals[c]).score ≤ 10000) ∧
    ∀ h : Fin 16, (s.score.board[h]).completed ≤ 255 ∧ (s.score.board[h]).last ≤ 10000 ∧ (s.score.board[h]).best ≤ 10000

/-- A frame in progress holds fewer than 512 samples, four a beat, and the estimate in flight a whole frame (R94, R98). -/
def FramersSound (s : State) : Prop :=
  (∀ c : Fin 4, (s.framers[c]).samples.length < 512 ∧ (s.framers[c]).samples.length % 4 = 0 ∧ (s.framers[c]).gaps ≤ 65535) ∧
    ∀ c : Fin 4, ∀ f, s.flights[c] = some f → f.samples.length = 512

/-- The room's time and timer by its state (R167, R168). -/
def RoomSound (s : State) : Prop :=
  match s.room.state with
  | .opened => 1 ≤ s.room.remaining ∧ s.room.remaining ≤ 86400 ∧ s.room.timer.isSome = true
  | .closed | .overtime => s.room.remaining = 0 ∧ s.room.timer = none

end Sys2Proof.Machine
end

