-- ==== Sys2Proof/Certificates/Slice0/Obligations.lean ====
section
/-! DEFINITION. The statements about the C3120, one `Prop` each, in the order of OBLIGATIONS.json. -/

open Sys2Proof Sys2Proof.Machine

/-! ### The step -/

/-- The command at the front of the queue is executed with the queue's rest. -/
def Obligations.StepRunsFrontCommand : Prop :=
  ∀ (c : Instr) (rest : List Instr) (s : State), s.pending = c :: rest → step s = exec c { s with pending := rest }

/-- The model's choice (notes/assumptions/3.md, 4.md): with no command waiting, a due event is taken if there is one, and
else the timebase ticks. When each event is due, by R38, R50, R108, R124, R138, R140 and R168. The model's choice too
(notes/assumptions/11.md): an estimate whose bound passes while BUS_RESET_N is low is due at once after its rise. -/
def Obligations.IdleStepTakesDueEventOrTicks : Prop :=
  ∀ s : State,
    (s.pending = [] →
      (dueNow s = [] → step s = .next (if s.resetLow then s else { s with timebase := s.timebase + 1 })) ∧
      (dueNow s ≠ [] → ∃ c ∈ dueNow s, step s = exec c { s with choices := s.choices + 1 })) ∧
    (∀ c ∈ dueNow s, c = .stallTimerExpiry ∨ (∃ h, c = .presenceExpiry h) ∨ (∃ h, c = .quietIntervalExpiry h) ∨
      c = .roomSecondExpiry ∨ (∃ n, c = .estimatePosting n) ∨ c = .resultPostingComplete) ∧
    (.stallTimerExpiry ∈ dueNow s ↔ s.clock.state = .running ∧ ∃ start, s.clock.stall = some start ∧
      s.clock.stallTimeout ≤ (s.timebase - start).toNat) ∧
    (∀ h : Fin 16, .presenceExpiry h ∈ dueNow s ↔
      ((s.handsets.records[h]).state = .active ∨ (s.handsets.records[h]).state = .held) ∧
        ∃ start, (s.handsets.records[h]).presence = some start ∧
          presenceMinutes s.anchor.bytes * 60000 ≤ (s.timebase - start).toNat) ∧
    (∀ h : Fin 16, .quietIntervalExpiry h ∈ dueNow s ↔ (s.handsets.records[h]).state = .barred ∧
      ∃ start, (s.handsets.records[h]).quiet = some start ∧ 10000 ≤ (s.timebase - start).toNat) ∧
    (.roomSecondExpiry ∈ dueNow s ↔ s.room.state = .opened ∧ ∃ start, s.room.timer = some start ∧
      1000 ≤ (s.timebase - start).toNat) ∧
    (∀ n : Fin 4, .estimatePosting n ∈ dueNow s ↔ s.busResetLow = false ∧
      ∃ f, s.flights[n] = some f ∧ 32 ≤ (s.timebase - f.start).toNat) ∧
    (.resultPostingComplete ∈ dueNow s ↔ ∃ p, s.score.posting = some p ∧ 1 ≤ (s.timebase - p.start).toNat)

/-- Every well-formed command has a next state, and no command touches the queue of commands. The model's choice
(notes/assumptions/10.md): where an operand makes a command that cannot come, the model stops. -/
def Obligations.WellFormedCommandsRun : Prop :=
  (∀ (c : Instr) (s : State), c.wellFormed = true → ∃ t, exec c s = .next t ∧ t.pending = s.pending) ∧
  (∀ (r : BusRequest) (s : State), r.addr.toNat % 8 ≠ 0 ∨ r.beats = 0 ∨ 16 < r.beats →
    exec (.requestAccept r) s = .fault .busProtocol) ∧
  (∀ (slot : CmdSlot) (code : Byte) (s : State), code = 0 ∨ code ∈ commandCodes →
    exec (.unknown slot code) s = .refused (.otherRow "UNKNOWN")) ∧
  (∀ (head : PacketHead) (kind : Byte) (s : State), kind.toNat ≤ 4 →
    exec (.packetUnknownKind head kind) s = .refused (.otherRow "PACKET_UNKNOWN_KIND"))

/-! ### The buffer bus path -/

/-- R4: memory top, anchor page, the lowest-numbered live entry that contains the address with its mask and guard (R8),
no match, in this order. R7: a live entry of size code s contains an address exactly when the address XOR its base has every
bit from 12 + s upward 0. -/
def Obligations.MatchTakesChecksInOrder : Prop :=
  ∀ (sel : BitVec 2) (x : Anchor) (dir : Dir) (tag : Fin 16) (a : Addr),
    let above := memoryTop x.bytes ≠ 0 ∧ memoryTop x.bytes * 1048576 ≤ a.toNat
    let page := anchorBase sel ≤ a ∧ a ≤ anchorBase sel + 0xFFF
    (above → matchBeat sel x dir tag a = .block .memoryTop) ∧
    (¬ above → page → matchBeat sel x dir tag a = if dir = .read then .pass else .anchorWrite) ∧
    (¬ above → ¬ page → ∀ i : Fin 16, x.covers a i = true → (∀ j : Fin 16, j < i → x.covers a j = false) →
      matchBeat sel x dir tag a =
        if (entryMask x.bytes i).getLsbD tag.val then
          .window { index := i, base := entryBase x.bytes i, sizeCode := entrySizeCode x.bytes i }
            ((roleOf (entryRoleCode x.bytes i)).getD .none) (entryUnit x.bytes i)
        else if dir = .write ∧ entryGuard x.bytes i = true then .block .guard else .pass) ∧
    (¬ above → ¬ page → (∀ i : Fin 16, x.covers a i = false) → matchBeat sel x dir tag a = .pass) ∧
    ∀ i : Fin 16, x.covers a i = true ↔ x.live.getLsbD i.val = true ∧
      ∀ k, 12 + (x.bytes.read (16 * i.val + 6)).toNat ≤ k → k < 32 →
        (a ^^^ BitVec.ofNat 32 (word32 x.bytes (16 * i.val))).getLsbD k = false

/-- R1, R2, R9, R10, R30: a request that the U port can accept joins the completion list with the treatment of each of its
beats fixed, views answered from the state before it (DEDUCED, notes/assumptions/8.md), and its runs those of its beats; no
byte store (the anchor, melody and timeline tables and the strips' bytes), framer, packet or command state changes. -/
def Obligations.AcceptFixesEveryTreatment : Prop :=
  ∀ (r : BusRequest) (s : State), r.addr.toNat % 8 = 0 → 1 ≤ r.beats → r.beats ≤ 16 → s.busUp = true →
    s.bus.held = none → s.bus.list.length < 8 → s.bus.awaitsData = false →
    ∃ t l, exec (.requestAccept r) s = .next t ∧
      t.bus = { s.bus with list := s.bus.list ++ [l], nextSerial := s.bus.nextSerial + 1 } ∧
      l.serial = s.bus.nextSerial ∧ l.request = r ∧ l.taken = [] ∧ l.beats.length = r.beats ∧
      l.runs = runsFrom 0 none l.beats ∧
      (∀ k, k < r.beats → ∃ b, l.beats[k]? = some b ∧ b.addr = r.addr + BitVec.ofNat 32 (8 * k) ∧
        TreatedAsRuled s r b.addr b.treatment) ∧
      t.lyrics.timeline = s.lyrics.timeline ∧
      (∀ k : Fin 4, (t.lyrics.strips[k]).bytes = (s.lyrics.strips[k]).bytes) ∧
      t = { s with
        bus := t.bus, blocked := t.blocked, events := t.events, statusGen := t.statusGen, clock := t.clock
        lyrics := t.lyrics, compositor := t.compositor, score := t.score, queue := t.queue }

/-- R2: the runs that an accepted request lists are in beat order, wait to be forwarded, and hold exactly the beats that
reach memory (those not BLOCKed, ABSORBed or ANSWERed). No run passes the wrap to address 0, and each is a whole stretch:
one run follows on the last beat of another only where the address wraps. -/
def Obligations.RunsCoverForwardedBeats : Prop :=
  ∀ (r : BusRequest) (s : State), Acceptable r s →
    let addr := fun k => r.addr + BitVec.ofNat 32 (8 * k)
    ∃ t l, exec (.requestAccept r) s = .next t ∧ t.bus.list = s.bus.list ++ [l] ∧ l.request = r ∧
      (∀ k, (∃ b, l.beats[k]? = some b ∧ b.treatment ≠ .block ∧ b.treatment ≠ .absorb ∧ ∀ d, b.treatment ≠ .answer d) ↔
        ∃ q ∈ l.runs, q.first ≤ k ∧ k < q.first + q.count) ∧
      (∀ q ∈ l.runs, 1 ≤ q.count ∧ q.status = .waiting ∧ ∀ k, q.first < k → k < q.first + q.count → addr k ≠ 0) ∧
      l.runs.Pairwise (fun q p => q.first + q.count ≤ p.first) ∧
      ∀ q ∈ l.runs, ∀ p ∈ l.runs, q.first + q.count = p.first → addr p.first = 0

/-- R8, R11: of the blocked beats of an accepted request the highest-numbered stands in the last-blocked record, and
GUARD_BLOCK (event 1) is raised by a guard alone. A request that reaches neither the clock nor the compositor changes
nothing else. -/
def Obligations.AcceptRecordsBlockedBeats : Prop :=
  ∀ (r : BusRequest) (s t : State), r.addr.toNat % 8 = 0 → 1 ≤ r.beats → r.beats ≤ 16 → s.busUp = true →
    s.bus.held = none → s.bus.list.length < 8 → s.bus.awaitsData = false → exec (.requestAccept r) s = .next t →
    let decided := fun k => matchBeat s.anchorSel s.anchor r.dir r.tag (r.addr + BitVec.ofNat 32 (8 * k))
    ((∀ k, k < r.beats → ∀ c, decided k ≠ .block c) → t.blocked = s.blocked) ∧
    (∀ k c, k < r.beats → decided k = .block c → (∀ j, k < j → j < r.beats → ∀ e, decided j ≠ .block e) →
      t.blocked = { valid := true, addr := r.addr + BitVec.ofNat 32 (8 * k), tag := r.tag, dir := r.dir, cause := c }) ∧
    ((∀ k, k < r.beats → r.dir = .write ∨ (decided k).reachesBlock = false) →
      t = (if ∃ k, k < r.beats ∧ decided k = .block .guard then
          signalled 1 { s with bus := t.bus, blocked := t.blocked }
        else { s with bus := t.bus, blocked := t.blocked }))

/-- R1, R2, R19, R20 with the model's handshake (notes/assumptions/6.md): a request that cannot be accepted yet is held, and
with a reset input low, or another request held, it is turned away; a held one is accepted when the oldest completion
has left, and when the data of the open write's last beat has been taken and, if that beat is snooped, handed over. -/
def Obligations.UnacceptedRequestIsHeldOrTurnedAway : Prop :=
  ∀ (r : BusRequest) (s : State), r.addr.toNat % 8 = 0 → 1 ≤ r.beats → r.beats ≤ 16 →
    (s.busUp = true → s.bus.held = none → 8 ≤ s.bus.list.length ∨ s.bus.awaitsData = true →
      exec (.requestAccept r) s = .next { s with bus := { s.bus with held := some r } }) ∧
    (s.busUp = false ∨ s.bus.held ≠ none → exec (.requestAccept r) s = .next s) ∧
    (∀ l rest, s.busUp = true → s.bus.held = some r → s.bus.list = l :: rest → l.finished = true → rest.length < 8 →
      { s.bus with list := rest }.awaitsData = false →
      exec .completionLeave s =
        exec (.requestAccept r) { s with bus := { s.bus with list := rest, held := none, uPort := some l.completion } }) ∧
    (∀ older l b d en, s.busUp = true → s.bus.held = some r → s.bus.list = older ++ [l] → l.request.dir = .write →
      l.beats.length = l.taken.length + 1 → l.beats[l.taken.length]? = some b → older.length < 7 →
      let list := older ++ [{ l with taken := l.taken ++ [(d, en)] }]
      ((∀ dest, b.treatment ≠ .snoop dest) →
        exec (.writeBeatDataTaken d en) s = exec (.requestAccept r) { s with bus := { s.bus with list := list, held := none } }) ∧
      ∃ t x, exec (.writeBeatDataTaken d en) s = .next t ∧ x.request = r ∧ x.serial = s.bus.nextSerial ∧ x.taken = [] ∧
        x.beats.length = r.beats ∧
        t.bus = { s.bus with list := list ++ [x], held := none, nextSerial := s.bus.nextSerial + 1 })

/-- R12, R14, R18, R138: an anchor-page write beat with the lock clear replaces the enabled bytes at offsets 000h to 1FFh
and no other shadow byte. At 100h and above it leaves the live set, the last-window-fault field and every event alone, but
a changed presence timeout makes ABSENT at once each handset whose elapsed time is at or above the new one, with
HANDSET_CHANGE (event 12) and the skip test. That a handset whose elapsed time equals the new timeout is ABSENT at once is
DEDUCED, the model's reading (notes/assumptions/9.md): R138 says so of one that already exceeds it. With the lock set, a beat with an enabled byte below 200h changes no shadow
byte, records 255 and raises WINDOW_FAULT (event 0), and any other anchor-page beat does nothing. -/
def Obligations.AnchorWritesAndLock : Prop :=
  (∀ (s u : State) (b : Beat) (d : Data) (en : Enables), TakesData s b d en u → b.treatment = .snoop .anchor →
    lockSet s.anchor.bytes = true →
    exec (.writeBeatDataTaken d en) s = .next
      (if b.addr.toNat % 4096 < 0x200 ∧ en ≠ 0 then
        signalled 0 { u with anchor := { s.anchor with lastFault := .locked } }
      else u)) ∧
  ∀ (s u : State) (b : Beat) (d : Data) (en : Enables), TakesData s b d en u → b.treatment = .snoop .anchor →
    b.addr.toNat % 8 = 0 → lockSet s.anchor.bytes = false → s.anchor.bytes.wf = true →
    ∃ t, exec (.writeBeatDataTaken d en) s = .next t ∧
      (∀ p, t.anchor.bytes.read p =
        if p < 0x200 ∧ b.addr.toNat % 4096 ≤ p ∧ p < b.addr.toNat % 4096 + 8 ∧
            en.getLsbD (p - b.addr.toNat % 4096) = true then
          d.extractLsb' (8 * (p - b.addr.toNat % 4096)) 8
        else s.anchor.bytes.read p) ∧
      (presenceMinutes t.anchor.bytes = presenceMinutes s.anchor.bytes →
        t = { u with anchor := t.anchor, events := t.events, statusGen := t.statusGen }) ∧
      (0x100 ≤ b.addr.toNat % 4096 →
        let lapses := fun h : Fin 16 => ((s.handsets.records[h]).state = .active ∨ (s.handsets.records[h]).state = .held) ∧
          ∃ start, (s.handsets.records[h]).presence = some start ∧
            presenceMinutes t.anchor.bytes * 60000 ≤ (s.timebase - start).toNat
        t.anchor = { s.anchor with bytes := t.anchor.bytes } ∧
        (presenceMinutes t.anchor.bytes = presenceMinutes s.anchor.bytes ∨ (∀ h, ¬ lapses h) → t = { u with anchor := t.anchor }) ∧
        (presenceMinutes t.anchor.bytes ≠ presenceMinutes s.anchor.bytes →
          (∀ h : Fin 16, lapses h → t.events.getLsbD 12 = true ∧
            t.handsets.records[h] = { s.handsets.records[h] with state := .absent, presence := none }) ∧
          (∀ h : Fin 16, ¬ lapses h → t.handsets.records[h] = s.handsets.records[h]) ∧ SkipTested s t (∃ h, lapses h) ∧
          t.handsets.gen = s.handsets.gen + BitVec.ofNat 32 ((List.finRange 16).countP (fun h =>
            decide ((t.handsets.records[h]).state ≠ (s.handsets.records[h]).state)))) ∧
        Raised s t 0 (fun n => n = 12 ∧ presenceMinutes t.anchor.bytes ≠ presenceMinutes s.anchor.bytes ∧ (∃ h, lapses h) ∨
          n = 11 ∧ s.handsets.votePassed = false ∧ t.handsets.votePassed = true) ∧
        t = { u with anchor := t.anchor, handsets := t.handsets, events := t.events, statusGen := t.statusGen })

/-- R13, R14: the six conditions under which the entry check fails; and a beat that touches a window entry decides that
entry alone. Enabled and passing it is live; enabled and failing it is not live, its index is recorded and WINDOW_FAULT
(event 0) is raised; not enabled it is not live. -/
def Obligations.TouchedEntryIsCheckedOrDisabled : Prop :=
  (∀ (sel : BitVec 2) (m : Mem) (i : Fin 16),
    let base := (entryBase m i).toNat
    let size := 4096 * 2 ^ entrySizeCode m i
    let page := (anchorBase sel).toNat
    entryCheck sel m i = false ↔
      16 < entrySizeCode m i ∨ base % size ≠ 0 ∨ 9 < entryRoleCode m i ∨
      (if entryRoleCode m i = 5 ∨ entryRoleCode m i = 9 then 3 < entryUnit m i else entryUnit m i ≠ 0) ∨
      (∃ a, base ≤ a ∧ a < base + size ∧ page ≤ a ∧ a < page + 4096) ∨
      (memoryTop m ≠ 0 ∧ memoryTop m * 1048576 < base + size)) ∧
  ∀ (s u : State) (b : Beat) (d : Data) (en : Enables) (i : Fin 16), TakesData s b d en u →
    b.treatment = .snoop .anchor → b.addr.toNat % 8 = 0 → b.addr.toNat % 4096 / 16 = i.val → en ≠ 0 →
    lockSet s.anchor.bytes = false →
    ∃ m live, (∀ j : Fin 16, j ≠ i → live.getLsbD j.val = s.anchor.live.getLsbD j.val) ∧
      (live.getLsbD i.val = (entryEnable m i && entryCheck s.anchorSel m i)) ∧
      (∀ p, p < 16 * i.val ∨ 16 * i.val + 16 ≤ p → m.read p = s.anchor.bytes.read p) ∧
      exec (.writeBeatDataTaken d en) s = .next
        (if entryEnable m i = true ∧ entryCheck s.anchorSel m i = false then
          signalled 0 { u with anchor := { bytes := m, live := live, lastFault := .entry i } }
        else { u with anchor := { bytes := m, live := live, lastFault := s.anchor.lastFault } })

/-- R9, R10, R62, R111, R176: the data of a write beat that is not snooped is taken with the request and changes nothing
else; a TIMELINE or MELODY write beat replaces the enabled bytes of its slot and nothing else. -/
def Obligations.WriteBeatsReachTheirTables : Prop :=
  (∀ (s u : State) (b : Beat) (d : Data) (en : Enables), TakesData s b d en u → (∀ dest, b.treatment ≠ .snoop dest) →
    exec (.writeBeatDataTaken d en) s = .next u) ∧
  (∀ (s u : State) (b : Beat) (d : Data) (en : Enables) (w : Win), TakesData s b d en u →
    b.treatment = .snoop (.timeline w) → w.offset b.addr % 8 = 0 → s.lyrics.timeline.wf = true →
    ∃ m, exec (.writeBeatDataTaken d en) s = .next { u with lyrics := { s.lyrics with timeline := m } } ∧
      ∀ p, m.read p =
        if w.offset b.addr % 8192 ≤ p ∧ p < w.offset b.addr % 8192 + 8 ∧ en.getLsbD (p - w.offset b.addr % 8192) = true then
          d.extractLsb' (8 * (p - w.offset b.addr % 8192)) 8
        else s.lyrics.timeline.read p) ∧
  (∀ (s u : State) (b : Beat) (d : Data) (en : Enables) (w : Win), TakesData s b d en u →
    b.treatment = .snoop (.melody w) → w.offset b.addr % 8 = 0 → s.melody.wf = true →
    ∃ m, exec (.writeBeatDataTaken d en) s = .next { u with melody := m } ∧
      ∀ p, m.read p =
        if w.offset b.addr % 8192 ≤ p ∧ p < w.offset b.addr % 8192 + 8 ∧ en.getLsbD (p - w.offset b.addr % 8192) = true then
          d.extractLsb' (8 * (p - w.offset b.addr % 8192)) 8
        else s.melody.read p)

/-- R57 to R60: a STRIP write beat at any position. To a SHOWN buffer, or storing no byte, it changes nothing. Else, unless
it writes the complete flag nonzero, the stored bytes are replaced, and the buffer is LOADING, but READY under a coverage
beat if it was READY: so a flag written 0, or a reserved header byte alone, releases a READY buffer. A beat that writes the
complete flag nonzero runs the completion check on the header as stored, by the six conditions of R60: READY, or FREE with
STRIP_REJECTED (event 8). -/
def Obligations.StripBeatsStoreAndSubmit : Prop :=
  (∀ (s u : State) (b : Beat) (d : Data) (en : Enables) (w : Win) (k : Fin 4) (p : Nat), TakesData s b d en u →
    b.treatment = .snoop (.strip w) → w.offset b.addr % 262144 = 65536 * k.val + p → p < 65536 → p % 8 = 0 →
    (s.lyrics.strips[k]).bytes.wf = true →
    let limit := (frameWidth s.anchor.bytes * lineHeight s.anchor.bytes + 3) / 4
    let stored := fun i => i < 8 ∧ en.getLsbD i = true ∧ p + i < 64 + limit
    ((s.lyrics.strips[k]).state = .shown ∨ (∀ i, ¬ stored i) → exec (.writeBeatDataTaken d en) s = .next u) ∧
    ((s.lyrics.strips[k]).state ≠ .shown → (∃ i, stored i) → ¬ (p = 56 ∧ en.getLsbD 0 = true ∧ d.extractLsb' 0 8 ≠ 0) →
      ∃ m, exec (.writeBeatDataTaken d en) s = .next
          { u with lyrics := { s.lyrics with strips := (setAt s.lyrics.strips k
              { state := if (s.lyrics.strips[k]).state = .ready ∧ 64 ≤ p then .ready else .loading, bytes := m }) } } ∧
        ∀ q, m.read q = if p ≤ q ∧ stored (q - p) then d.extractLsb' (8 * (q - p)) 8 else (s.lyrics.strips[k]).bytes.read q)) ∧
  ∀ (s u : State) (b : Beat) (d : Data) (en : Enables) (w : Win) (k : Fin 4), TakesData s b d en u →
    b.treatment = .snoop (.strip w) → w.offset b.addr % 262144 = 65536 * k.val + 56 →
    (s.lyrics.strips[k]).bytes.wf = true →
    (s.lyrics.strips[k]).state ≠ .shown → en.getLsbD 0 = true → d.extractLsb' 0 8 ≠ 0 →
    ∃ m : Mem,
      let become := fun st => { s.lyrics with strips := (setAt s.lyrics.strips k { state := st, bytes := m }) }
      (∀ q, m.read q =
        if 56 ≤ q ∧ q < 64 ∧ en.getLsbD (q - 56) = true then d.extractLsb' (8 * (q - 56)) 8
        else (s.lyrics.strips[k]).bytes.read q) ∧
      (StripPasses (become .loading) k → exec (.writeBeatDataTaken d en) s = .next { u with lyrics := become .ready }) ∧
      (¬ StripPasses (become .loading) k →
        exec (.writeBeatDataTaken d en) s = .next (signalled 8 { u with lyrics := become .free }))

/-- R95 to R98: a capture beat. Continuous, its samples are appended; none expected, a whole beat starts a frame and a
partial one is set aside; else it is a gap, counted and raised as CAPTURE_GAP (event 9). The continuous beat that brings the
frame to 512 samples is the row FRAME_COMPLETE where the shadow still gives the beat to the entry of its match. -/
def Obligations.CaptureBeatsFillFrames : Prop :=
  ∀ (s u : State) (b : Beat) (d : Data) (en : Enables) (w : Win) (c : Fin 4), TakesData s b d en u →
    b.treatment = .snoop (.capture c w) →
    let f := s.framers[c]
    let four : List (BitVec 16) := [d.extractLsb' 0 16, d.extractLsb' 16 16, d.extractLsb' 32 16, d.extractLsb' 48 16]
    let next := some (w.index, w.next b.addr)
    let put := fun g : Framer => { u with framers := setAt s.framers c g }
    (f.expected = some (w.index, b.addr) → en = 0xFF → f.samples.length < 508 →
      exec (.writeBeatDataTaken d en) s = .next (put { f with expected := next, samples := f.samples ++ four })) ∧
    (f.expected = none → en = 0xFF →
      exec (.writeBeatDataTaken d en) s = .next (put { f with expected := next, samples := four })) ∧
    (f.expected = none → en ≠ 0xFF → exec (.writeBeatDataTaken d en) s = .next u) ∧
    (f.expected ≠ none → (en ≠ 0xFF ∨ f.expected ≠ some (w.index, b.addr)) →
      exec (.writeBeatDataTaken d en) s = .next
        (signalled 9 (put
          { expected := if en = 0xFF then next else none, samples := if en = 0xFF then four else []
            gaps := min (f.gaps + 1) 65535 }))) ∧
    (f.expected = some (w.index, b.addr) → en = 0xFF → f.samples.length = 508 →
      (s.busUp = true → s.anchor.window w.index = w → CaptureCanCome s c w.index b.addr →
        exec (.writeBeatDataTaken d en) s = exec (.frameComplete c d) u) ∧
      (s.flights[c] = none →
        exec (.writeBeatDataTaken d en) s = .next
          { u with
            framers := setAt s.framers c { f with expected := next, samples := [] }
            flights := setAt s.flights c (some
              { samples := f.samples ++ four, position := s.clock.position, state := s.clock.state, epoch := s.clock.epoch
                voicing := s.clock.voicing, folding := s.clock.folding, start := s.timebase }) }))

/-- R95, R98, R108, R179: the beat that brings a frame to 512 samples, where the entry that the framer holds can still
receive it. The estimate of the channel begins on the samples with the position, state, epoch, threshold and folding of this
moment, and the frame in progress then holds nothing; an estimate in flight is posted first. Where the entry is not live, is
no longer CAPTURE of the channel or no longer gets the held address, no such beat comes and the framer keeps its frame. The
model's choice (notes/assumptions/5.md): a beat that cannot complete a frame is turned away. -/
def Obligations.FrameCompletionBeginsEstimate : Prop :=
  ∀ (c : Fin 4) (d : Data) (s : State), s.busUp = true →
    let held := fun i a => (s.framers[c]).expected = some (i, a)
    let full := (s.framers[c]).samples.length = 508
    let framers := fun i a => setAt s.framers c
      { s.framers[c] with expected := some (i, (s.anchor.window i).next a), samples := [] }
    let flights := setAt s.flights c (some
      { samples := (s.framers[c]).samples ++
          [d.extractLsb' 0 16, d.extractLsb' 16 16, d.extractLsb' 32 16, d.extractLsb' 48 16]
        position := s.clock.position, state := s.clock.state, epoch := s.clock.epoch
        voicing := s.clock.voicing, folding := s.clock.folding, start := s.timebase })
    (∀ i a, held i a → full → CaptureCanCome s c i a → s.flights[c] = none →
      exec (.frameComplete c d) s = .next { s with framers := framers i a, flights := flights }) ∧
    (∀ i a f, held i a → full → CaptureCanCome s c i a → s.flights[c] = some f →
      ∃ t, exec (.frameComplete c d) s = .next t ∧ (t.score.channels[c]).latest = f.estimate ∧
        exec (.estimatePosting c) s = .next { s with flights := setAt s.flights c none, score := t.score } ∧
        t = { s with framers := framers i a, flights := flights, score := t.score }) ∧
    (∀ i a, held i a → ¬ CaptureCanCome s c i a → exec (.frameComplete c d) s = .next s) ∧
    ((s.framers[c]).expected = none ∨ ¬ full → exec (.frameComplete c d) s = .next s)

/-- R22: a COMMAND beat 0 is the pending first half when it is whole, and leaves none when it is not; no outcome is
recorded, and a beat 1 with no first half pending is refused INCOMPLETE with code 0 and host tag 0. -/
def Obligations.CommandBeatZeroIsFirstHalf : Prop :=
  ∀ (s u : State) (b : Beat) (d : Data) (en : Enables) (w : Win), TakesData s b d en u →
    b.treatment = .snoop (.command w) →
    (w.offset b.addr % 16 = 0 → exec (.writeBeatDataTaken d en) s = .next
      { u with intake := { s.intake with
          firstHalf := (if en = 0xFF then some { entry := w.index, slot := BitVec.ofNat 32 (w.offset b.addr), data := d }
            else none) } }) ∧
    (w.offset b.addr % 16 = 8 → s.intake.firstHalf = none → exec (.writeBeatDataTaken d en) s = .next
      (afterCommand { hostTag := 0, entry := w.index, offset := BitVec.ofNat 32 (w.offset b.addr - 8) } 0 .incomplete u))

/-- R23, R25, R27, R175: a COMMAND beat 1 with a first half pending. Of another slot or partial, it is refused INCOMPLETE;
whole and of the same slot it hands the record over as the row its code names, and code 0 is dropped. -/
def Obligations.CommandBeatOneDecides : Prop :=
  ∀ (s u : State) (b : Beat) (d : Data) (en : Enables) (w : Win) (h : FirstHalf), TakesData s b d en u → s.busUp = true →
    b.treatment = .snoop (.command w) → w.offset b.addr % 16 = 8 → s.intake.firstHalf = some h →
    let offset : Addr := BitVec.ofNat 32 (w.offset b.addr - 8)
    let slot : CmdSlot := { hostTag := h.data.extractLsb' 8 8, entry := w.index, offset := offset }
    let code := h.data.extractLsb' 0 8
    let same := h.entry = w.index ∧ h.slot = offset
    (¬ same → exec (.writeBeatDataTaken d en) s = .next (afterCommand { slot with hostTag := 0 } 0 .incomplete u)) ∧
    (same → en ≠ 0xFF → exec (.writeBeatDataTaken d en) s = .next (afterCommand slot code .incomplete u)) ∧
    (same → en = 0xFF → code = 0 →
      exec (.writeBeatDataTaken d en) s = .next { u with intake := { s.intake with firstHalf := none } }) ∧
    (same → en = 0xFF → code ≠ 0 → exec (.writeBeatDataTaken d en) s = exec (recordRow slot code h.data d) u)

/-- R132: what a RECEIVE beat does to the assembly, row by row. R133, R134: the whole beat 3 that completes a packet. Kind 0
is ignored, a bad sum or handset byte is counted as garbled, and a check-valid packet is handed over as the row of its
kind. -/
def Obligations.PacketLastBeatHandsOver : Prop :=
  (∀ (s u : State) (b : Beat) (d : Data) (en : Enables) (w : Win), TakesData s b d en u → b.treatment = .snoop (.receive w) →
    let n := w.offset b.addr % 32 / 8
    let slot : Addr := BitVec.ofNat 32 (32 * (w.offset b.addr / 32))
    let starts := n = 0 ∧ en = 0xFF
    let fresh : Assembly := { entry := w.index, slot := slot, beats := [d] }
    let leaves := fun (x : Option Assembly) (garbled : Nat) =>
      exec (.writeBeatDataTaken d en) s = .next { u with parser := { assembly := x, garbled := garbled } }
    (s.parser.assembly = none → starts → leaves (some fresh) s.parser.garbled) ∧
    (s.parser.assembly = none → ¬ starts → leaves none s.parser.garbled) ∧
    ∀ a, s.parser.assembly = some a →
      let turn := en = 0xFF ∧ n ≠ 0 ∧ a.entry = w.index ∧ a.slot = slot ∧ a.beats.length = n
      (starts → leaves (some fresh) (min (s.parser.garbled + 1) 65535)) ∧
      (turn → n ≠ 3 → leaves (some { a with beats := a.beats ++ [d] }) s.parser.garbled) ∧
      (¬ starts → ¬ turn → leaves none (min (s.parser.garbled + 1) 65535))) ∧
  ∀ (s u : State) (b : Beat) (b0 b1 b2 d : Data) (w : Win), TakesData s b d 0xFF u → s.busUp = true →
    b.treatment = .snoop (.receive w) → w.offset b.addr % 32 = 24 →
    s.parser.assembly =
      some { entry := w.index, slot := BitVec.ofNat 32 (w.offset b.addr - 24), beats := [b0, b1, b2] } →
    let sum := (((dataBytes b0 ++ dataBytes b1 ++ dataBytes b2 ++ dataBytes d).map BitVec.toNat).sum) % 256
    let bad := sum ≠ 0 ∨ 15 < (b0.extractLsb' 8 8).toNat
    let done := fun n => { u with parser := { assembly := none, garbled := n } }
    (b0.extractLsb' 0 8 = 0 → exec (.writeBeatDataTaken d 0xFF) s = .next (done s.parser.garbled)) ∧
    (b0.extractLsb' 0 8 ≠ 0 → bad → exec (.writeBeatDataTaken d 0xFF) s = .next (done (min (s.parser.garbled + 1) 65535))) ∧
    (b0.extractLsb' 0 8 ≠ 0 → ¬ bad → exec (.writeBeatDataTaken d 0xFF) s = exec (packetRow b0 b1) u)

/-- R2: the oldest waiting run leaves at the D port with its request's direction, tag, data and the address of its first
beat, once a write's data for it has been taken. -/
def Obligations.OldestRunIsForwarded : Prop :=
  ∀ (s : State) (before after : List Listed) (l : Listed) (done rest : List Run) (r : Run),
    s.bus.list = before ++ l :: after → (∀ x ∈ before, ∀ q ∈ x.runs, q.status ≠ .waiting) →
    l.runs = done ++ r :: rest → (∀ q ∈ done, q.status ≠ .waiting) → r.status = .waiting →
    (l.request.dir = .write → r.first + r.count ≤ l.taken.length) →
    exec .runForward s = .next
      { s with bus := { s.bus with
          list := before ++ { l with runs := done ++ { r with status := .forwarded } :: rest } :: after
          dPort := s.bus.dPort ++
            [{ owner := some (l.serial, done.length), dir := l.request.dir, tag := l.request.tag
               addr := l.request.addr + BitVec.ofNat 32 (8 * r.first), count := r.count
               data := if l.request.dir = .read then [] else (l.taken.drop r.first).take r.count }] } }

/-- R2, R3, R19, R20: a D-port completion is recorded with the run of the listed request that owns it, wherever that
request stands in the completion list, and discarded when a reset has abandoned the request. The model's choice
(notes/assumptions/5.md): a completion of no outstanding run, or with data of another length, is turned away. -/
def Obligations.RunCompletionIsRecorded : Prop :=
  ∀ (n : Nat) (fault : Bool) (data : List Data) (s : State),
    (∀ p, s.bus.dPort[n]? = some p → data.length = (if p.dir = .read then p.count else 0) →
      let gone := s.bus.dPort.eraseIdx n
      (p.owner = none → exec (.runCompletion n fault data) s = .next { s with bus := { s.bus with dPort := gone } }) ∧
      (∀ serial k before l after done r rest, p.owner = some (serial, k) → s.bus.list = before ++ l :: after →
        (∀ x ∈ before ++ after, x.serial ≠ serial) → l.serial = serial → l.runs = done ++ r :: rest → done.length = k →
        exec (.runCompletion n fault data) s = .next
          { s with bus := { s.bus with
              dPort := gone
              list := before ++ { l with runs := done ++ { r with status := .completed fault data } :: rest } :: after } }) ∧
      (∀ serial k, p.owner = some (serial, k) → (∀ x ∈ s.bus.list, x.serial ≠ serial) →
        exec (.runCompletion n fault data) s = .next { s with bus := { s.bus with dPort := gone } })) ∧
    ((∀ p, s.bus.dPort[n]? = some p → data.length ≠ (if p.dir = .read then p.count else 0)) →
      exec (.runCompletion n fault data) s = .next s)

/-- R2, R3, R10: the oldest request leaves when its runs are completed and its write data taken: FAULT exactly when a beat
was BLOCKed or a run faulted, and for a read the data of each beat by its treatment, memory data being that of the
completed run that holds the beat. -/
def Obligations.OldestRequestCompletes : Prop :=
  ∀ (s : State) (l : Listed) (rest : List Listed), s.bus.list = l :: rest → s.bus.held = none →
    (∀ r ∈ l.runs, ∃ f x, r.status = .completed f x) → (l.request.dir = .write → l.beats.length ≤ l.taken.length) →
    ∃ x : Completion,
      exec .completionLeave s = .next { s with bus := { s.bus with list := rest, uPort := some x } } ∧
      x.request = l.request ∧
      (x.fault = true ↔ (∃ b ∈ l.beats, b.treatment = .block) ∨ ∃ r ∈ l.runs, ∃ y, r.status = .completed true y) ∧
      (l.request.dir = .write → x.data = []) ∧
      (l.request.dir = .read → x.data.length = l.beats.length ∧
        ∀ (k : Nat) (b : Beat), l.beats[k]? = some b →
          (∀ y, b.treatment = .answer y → x.data[k]? = some y) ∧
          (b.treatment = .block ∨ b.treatment = .absorb → x.data[k]? = some 0) ∧
          ∀ done r more f y m, l.runs = done ++ r :: more → r.status = .completed f y →
            (∀ q ∈ done, ∀ g z, q.status = .completed g z → q.first + z.length ≤ k) →
            r.first ≤ k → y[k - r.first]? = some m →
            (b.treatment = .pass ∨ (∃ dest, b.treatment = .snoop dest) → x.data[k]? = some m) ∧
            ∀ p q, b.treatment = .transform p q →
              x.data[k]? = some (paintPixel q (m.extractLsb' 32 32) ++ paintPixel p (m.extractLsb' 0 32)))

/-- R19: RESET_N low gives every block its cold-reset value and abandons every request; RESET_N rising samples the straps
and starts the timebase at 0. The model's choices that the equation also says: the straps keep their old sample until the
release (notes/assumptions/1.md); the next serial, the U port's last completion, the count of free choices and the queue of
commands are kept (2.md); a request held in the handshake is dropped (6.md); BUS_RESET_N is kept and a second fall repeats
the reset (13.md). -/
def Obligations.ColdResetRestoresEveryBlock : Prop :=
  ∀ s : State,
    exec .coldReset s = .next
      { State.reset with
        resetLow := true, busResetLow := s.busResetLow, anchorSel := s.anchorSel, choices := s.choices, pending := s.pending
        bus := { s.bus with list := [], held := none, dPort := s.bus.dPort.map (fun d => { d with owner := none }) } } ∧
    ∀ sel, s.resetLow = true → exec (.coldResetRelease sel) s = .next { s with resetLow := false, anchorSel := sel, timebase := 0 }

/-- R20, R21, R55, R72, R76, R77, R100, R128, R133: BUS_RESET_N low abandons every request and drops the first half, the
assembly, the chain, the bands' flags and latches and the frames in progress, and frees every strip buffer. With a song in
progress it also ends the song with outcome RESET: open notes closed, posting begun, queue evaluated. Everything else stays,
and its rise changes nothing but the pin. The model's choices that the equations also say: a request held in the handshake is
dropped (notes/assumptions/6.md), and the next serial and the U port's last completion are kept (2.md). -/
def Obligations.BusResetEndsSongAndKeepsTables : Prop :=
  let dropped := fun s : State =>
    { s with
      busResetLow := true
      bus := { s.bus with list := [], held := none, dPort := s.bus.dPort.map (fun d => { d with owner := none }) }
      intake := { s.intake with firstHalf := none }
      lyrics := { s.lyrics with
        strips := mapAll (fun b => { b with state := .free }) s.lyrics.strips, chain := [], nextLine := 0
        scroll := none, lateMark := none }
      compositor := { s.compositor with inLyric := false, inGuide := false, lyricLatch := none, guideLatch := none }
      framers := mapAll (fun f => { f with expected := none, samples := [] }) s.framers
      parser := { s.parser with assembly := none } }
  (∀ s : State, s.resetLow = false → s.busResetLow = false → s.clock.state.inProgress = true →
    ∃ t, exec .busReset s = .next t ∧ SongEnded .reset 0 s t ∧
      t = { dropped s with
        clock := t.clock, score := t.score, queue := t.queue, events := t.events, statusGen := t.statusGen }) ∧
  ∀ s : State,
    (s.resetLow = false → s.busResetLow = false → s.clock.state.inProgress = false →
      exec .busReset s = .next (dropped s)) ∧
    exec .busResetRelease s = .next { s with busResetLow := false }

/-! ### Commands and events -/

/-- R28, R31, R34: raising an event makes its flag pending, leaves the others, and counts only when the flag was clear;
ACK_EVENTS clears the flags of its mask and is DONE. -/
def Obligations.EventFlagsRaisedAndAcknowledged : Prop :=
  (∀ (e : Event) (s : State), raise e s = signalled e.num s ∧ (raise e s).eventPending e = true ∧
    ∀ f : Event, f ≠ e → (raise e s).eventPending f = s.eventPending f) ∧
  ∀ (slot : CmdSlot) (mask : Set16) (s : State), s.busUp = true →
    ∃ t, exec (.ackEvents slot mask) s = .next t ∧
      (∀ n, n < 16 → t.events.getLsbD n = (s.events.getLsbD n && !mask.getLsbD n)) ∧
      t = afterCommand slot 0x01 .done
        { s with events := t.events, statusGen := s.statusGen + (if s.events &&& mask = 0 then 0 else 1) }

/-- R35: the highest-pending field is the lowest number both pending and enabled, or 16. R36: a line is high exactly while
RESET_N is high and some event that is pending and enabled points at it. -/
def Obligations.HighestPendingAndLines : Prop :=
  ∀ s : State,
    (∀ n, n < 16 → s.events.getLsbD n = true → s.enables.getLsbD n = true →
      (∀ k, k < n → ¬ (s.events.getLsbD k = true ∧ s.enables.getLsbD k = true)) → s.highestPending = n) ∧
    ((∀ k, k < 16 → ¬ (s.events.getLsbD k = true ∧ s.enables.getLsbD k = true)) → s.highestPending = 16) ∧
    (s.attn0 = true ↔ s.resetLow = false ∧ ∃ n, n < 16 ∧ s.events.getLsbD n = true ∧ s.enables.getLsbD n = true ∧
      s.anchor.bytes.read (0x150 + n) = 1) ∧
    (s.attn1 = true ↔ s.resetLow = false ∧ ∃ n, n < 16 ∧ s.events.getLsbD n = true ∧ s.enables.getLsbD n = true ∧
      2 ≤ (s.anchor.bytes.read (0x150 + n)).toNat)

/-- R25, R26, R37: every command taken writes the last-command record with its slot and code, and a refused one changes
nothing but that record and COMMAND_REFUSED; a nonzero code that the command table does not hold is refused UNKNOWN. -/
def Obligations.CommandsRecordAndRefusalsChangeNothing : Prop :=
  (∀ (slot : CmdSlot) (code : Byte) (s : State), code ≠ 0 → code ∉ commandCodes → s.busUp = true →
    exec (.unknown slot code) s = .next (afterCommand slot code .unknown s)) ∧
  ∀ (c : Instr) (slot : CmdSlot) (code : Byte) (s : State), commandOf c = some (slot, code) → c.wellFormed = true →
    s.busUp = true →
    ∃ t o, exec c s = .next t ∧
      t.intake =
        { firstHalf := none
          last := { valid := true, hostTag := slot.hostTag, code := code, outcome := o, entry := slot.entry, offset := slot.offset } } ∧
      (o ≠ .done → t = afterCommand slot code o s)

/-- R15, R29, R32, R33, R177, R178: the lengths of the four views, every field of them at its offset with its size and its
value, reserved bytes among them, and the effective globals by the table of R15; a view beat answers the eight bytes at its
offset, and zeros beyond the view's length. -/
def Obligations.ViewsHaveTheirLengths : Prop :=
  ∀ s : State, (viewBytes 0 s).length = 384 ∧ (viewBytes 1 s).length = 800 ∧ (viewBytes 2 s).length = 424 ∧
    (viewBytes 3 s).length = 264 ∧ (∀ u p, (viewBytes u s).length ≤ p → viewBeat u p s = 0) ∧
    (∀ u p i, i < 8 → (viewBeat u p s).extractLsb' (8 * i) 8 = (viewBytes u s).getD (p + i) 0) ∧
    (∀ x ∈ statusFields s, ((viewBytes 0 s).drop x.1).take x.2.1 = leBytes x.2.1 x.2.2) ∧
    (∀ x ∈ globalFields s.anchor.bytes, ((viewBytes 0 s).drop x.1).take x.2.1 = leBytes x.2.1 x.2.2) ∧
    GlobalsAsRuled s.anchor.bytes ∧
    (∀ x ∈ queueFields s.queue, ((viewBytes 1 s).drop x.1).take x.2.1 = leBytes x.2.1 x.2.2) ∧
    (∀ x ∈ scoreFields s.score, ((viewBytes 2 s).drop x.1).take x.2.1 = leBytes x.2.1 x.2.2) ∧
    ∀ x ∈ handsetFields s.handsets, ((viewBytes 3 s).drop x.1).take x.2.1 = leBytes x.2.1 x.2.2

/-! ### The song -/

/-- R40: when SONG_LOAD is refused, by the first check that fails. -/
def Obligations.SongLoadChecksInOrder : Prop :=
  ∀ (slot : CmdSlot) (a : SongLoadArgs) (s : State), s.busUp = true →
    let legal := 1 ≤ a.duration.toNat ∧ a.duration.toNat ≤ 1800000 ∧ 36 ≤ a.floorNote.toNat ∧
      a.floorNote.toNat ≤ a.ceilNote.toNat ∧ a.ceilNote.toNat ≤ 84 ∧
      (a.source = 0 ∨ a.source = 1 ∧ 1 ≤ a.song.toNat ∧ a.song.toNat ≤ 999999 ∧ a.difficulty.toNat ≤ 2 ∧
        -6 ≤ a.key.toInt ∧ a.key.toInt ≤ 6)
    let loadable := s.clock.state = .idle ∨ s.clock.state = .ended ∧ s.clock.postingDone = true
    (¬ legal → exec (.songLoad slot a) s = .next (afterCommand slot 0x10 .refusedArgument s)) ∧
    (legal → ¬ loadable → exec (.songLoad slot a) s = .next (afterCommand slot 0x10 .refusedState s)) ∧
    (legal → loadable → a.source = 0 → (∀ e ∈ s.queue.entries, e.state ≠ .queued) →
      exec (.songLoad slot a) s = .next (afterCommand slot 0x10 .refusedEmpty s))

/-- R41, R163, R70, R85, R99, R114, R137: a SONG_LOAD that is DONE, from the queue and direct. R31, R142, R153: the take
and an evaluation that changes a state advance the queue generation and make QUEUE_CHANGED (event 14) pending, each vote
withdrawn advances the handset generation, the command is recorded, and the status generation advances for the record and
for event 14 when that was clear. -/
def Obligations.SongLoadTakesTheSong : Prop :=
  ∀ (slot : CmdSlot) (a : SongLoadArgs) (s : State), s.busUp = true →
    1 ≤ a.duration.toNat → a.duration.toNat ≤ 1800000 → 36 ≤ a.floorNote.toNat →
    a.floorNote.toNat ≤ a.ceilNote.toNat → a.ceilNote.toNat ≤ 84 →
    (s.clock.state = .idle ∨ s.clock.state = .ended ∧ s.clock.postingDone = true) →
    (∀ pre e post, a.source = 0 → s.queue.entries = pre ++ e :: post → (∀ x ∈ pre, x.state ≠ .queued) → e.state = .queued →
      ∃ t, exec (.songLoad slot a) s = .next t ∧
        SongLoaded s t slot a
          { source := .queue, tag := e.tag, song := e.song, requester := e.requester, difficulty := e.difficulty
            key := e.key, duet := e.duet, pin := e.pin, repeats := e.repeats, duration := e.duration } (pre ++ post)) ∧
    (∀ diff, a.source = 1 → 1 ≤ a.song.toNat → a.song.toNat ≤ 999999 → difficultyOf a.difficulty = some diff →
      -6 ≤ a.key.toInt → a.key.toInt ≤ 6 →
      ∃ t, exec (.songLoad slot a) s = .next t ∧
        SongLoaded s t slot a
          { source := .direct, tag := 0, song := a.song.toNat, requester := .none, difficulty := diff, key := a.key.toInt
            duet := false, pin := false, repeats := 0, duration := (a.duration.toNat + 999) / 1000 } s.queue.entries)

/-- R42: SONG_START. -/
def Obligations.SongStartArmsLoadedSong : Prop :=
  ∀ (slot : CmdSlot) (s : State), s.busUp = true →
    (s.clock.state = .loaded → exec (.songStart slot) s = .next
      (afterCommand slot 0x11 .done { s with clock := { s.clock with state := .armed } })) ∧
    (s.clock.state ≠ .loaded → exec (.songStart slot) s = .next (afterCommand slot 0x11 .refusedState s))

/-- R51, R52, R71, R121, R123: SONG_SEEK, to a position below the loaded duration and to the duration, and its refusals. A
seek that is DONE closes and counts every open note, clears the chain (SHOWN buffers FREE, no scroll, no line-late mark, the
resume line next) and evaluates the queue; to the duration the song then ends with SONG_ENDED (event 3). QUEUE_CHANGED is
event 14. -/
def Obligations.SongSeekSetsPosition : Prop :=
  ∀ (slot : CmdSlot) (position : BitVec 32) (line : BitVec 16) (s : State), s.busUp = true →
    (4095 < line.toNat ∨ s.clock.duration < position.toNat →
      exec (.songSeek slot position line) s = .next (afterCommand slot 0x12 .refusedArgument s)) ∧
    (line.toNat ≤ 4095 → position.toNat ≤ s.clock.duration → s.clock.state ≠ .running → s.clock.state ≠ .stalled →
      exec (.songSeek slot position line) s = .next (afterCommand slot 0x12 .refusedState s)) ∧
    (line.toNat ≤ 4095 → position.toNat < s.clock.duration → s.clock.state = .running ∨ s.clock.state = .stalled →
      1000 ≤ s.clock.rate →
      ∃ t, exec (.songSeek slot position line) s = .next t ∧ t.intake = doneRecord slot 0x12 ∧
        t.clock = { s.clock with
          frames := (position.toNat * s.clock.rate + 999) / 1000 + s.clock.latency, expected := none
          stall := if s.clock.state = .running then some s.timebase else s.clock.stall, epoch := s.clock.epoch + 1 } ∧
        t.clock.position = position.toNat ∧ ChainCleared s.lyrics t.lyrics line.toNat ∧ NotesClosed s t ∧
        t.score = { s.score with channels := t.score.channels, gen := t.score.gen } ∧ t.queue = evaluatedQueue t s.queue ∧
        Raised s t 1 (fun n => n = 14 ∧ evaluated t s.queue.entries ≠ s.queue.entries) ∧
        t = { s with
          clock := t.clock, lyrics := t.lyrics, score := t.score, queue := t.queue, events := t.events
          statusGen := t.statusGen, intake := t.intake }) ∧
    (line.toNat ≤ 4095 → position.toNat = s.clock.duration → s.clock.state = .running ∨ s.clock.state = .stalled →
      1000 ≤ s.clock.rate →
      ∃ t, exec (.songSeek slot position line) s = .next t ∧ t.intake = doneRecord slot 0x12 ∧
        t.clock = { s.clock with
          state := .ended, endOutcome := .complete, postingDone := false
          frames := (position.toNat * s.clock.rate + 999) / 1000 + s.clock.latency, expected := none, stall := none
          epoch := s.clock.epoch + 2 } ∧
        t.clock.position = s.clock.duration ∧ ChainCleared s.lyrics t.lyrics line.toNat ∧ NotesClosed s t ∧
        t.score = { s.score with
          channels := t.score.channels, gen := t.score.gen, posting := some { outcome := .complete, start := s.timebase } } ∧
        t.queue = evaluatedQueue t s.queue ∧
        Raised s t 1 (fun n => n = 3 ∨ n = 14 ∧ evaluated t s.queue.entries ≠ s.queue.entries) ∧
        t = { s with
          clock := t.clock, lyrics := t.lyrics, score := t.score, queue := t.queue, events := t.events
          statusGen := t.statusGen, intake := t.intake })

/-- R48, R53, R121, R124, R164: SONG_STOP ends a song in progress with outcome STOPPED, closes every open note, begins the
posting and evaluates the queue; in IDLE and ENDED it is refused. -/
def Obligations.SongStopEndsSong : Prop :=
  ∀ (slot : CmdSlot) (s : State), s.busUp = true →
    (s.clock.state.inProgress = true →
      ∃ t, exec (.songStop slot) s = .next t ∧ t.intake = doneRecord slot 0x13 ∧ SongEnded .stopped 1 s t ∧
        t = { s with
          clock := t.clock, score := t.score, queue := t.queue, events := t.events, statusGen := t.statusGen
          intake := t.intake }) ∧
    (s.clock.state = .idle ∨ s.clock.state = .ended →
      exec (.songStop slot) s = .next (afterCommand slot 0x13 .refusedState s))

/-- R43 to R48: every beat of a request accepted in a PLAYBACK window is handed to the clock in beat order. A beat is ignored
in IDLE, LOADED and ENDED, starts an ARMED clock, counts when continuous, ends the song when the position reaches the
duration, and is a discontinuity (event 6) when not continuous. R50: the stall timer's expiry in RUNNING makes the clock
STALLED and raises SONG_STALLED (event 5). The model's choice (notes/assumptions/5.md): an expiry outside RUNNING, or with
the timer stopped or short of the timeout, changes nothing. -/
def Obligations.PlaybackBeatsAndStallDriveTheClock : Prop :=
  (∀ (r : BusRequest) (win : Nat → Win) (s : State), Acceptable r s → r.dir = .read →
    let addr := fun k => r.addr + BitVec.ofNat 32 (8 * k)
    (∀ k, k < r.beats → ∃ unit, matchBeat s.anchorSel s.anchor .read r.tag (addr k) = .window (win k) .playback unit) →
    ∃ b, exec (.requestAccept r) s = .next
      { (List.range r.beats).foldl (fun u k => playbackBeat (win k) (addr k) u) s with bus := b }) ∧
  (∀ s : State,
    (s.clock.position =
      if s.clock.state = .idle ∨ s.clock.state = .loaded ∨ s.clock.state = .armed then 0
      else min ((s.clock.frames - s.clock.latency) * 1000 / s.clock.rate) s.clock.duration) ∧
    (∀ start, s.clock.state = .running → s.clock.stall = some start →
      (s.clock.stallTimeout ≤ (s.timebase - start).toNat →
        exec .stallTimerExpiry s = .next (signalled 5 { s with clock := { s.clock with state := .stalled, stall := none } })) ∧
      ((s.timebase - start).toNat < s.clock.stallTimeout → exec .stallTimerExpiry s = .next s)) ∧
    (s.clock.state ≠ .running ∨ s.clock.stall = none → exec .stallTimerExpiry s = .next s)) ∧
  ∀ (w : Win) (a : Addr) (s : State),
    let next := some (w.index, if a + 8 = w.base + BitVec.ofNat 32 (4096 * 2 ^ w.sizeCode) then w.base else a + 8)
    let counted := fun n => { s with clock := { s.clock with
      frames := n, expected := next, stall := some s.timebase, state := .running } }
    let reaches := fun n => s.clock.duration ≤ (n - s.clock.latency) * 1000 / s.clock.rate
    let ends := fun n => SongEnded .complete 0 (counted n) (playbackBeat w a s) ∧
      (playbackBeat w a s).clock.position = s.clock.duration ∧
      playbackBeat w a s = { s with
        clock := (playbackBeat w a s).clock, score := (playbackBeat w a s).score, queue := (playbackBeat w a s).queue
        events := (playbackBeat w a s).events, statusGen := (playbackBeat w a s).statusGen }
    (s.clock.state = .idle ∨ s.clock.state = .loaded ∨ s.clock.state = .ended → playbackBeat w a s = s) ∧
    (s.clock.state = .armed → (¬ reaches 2 → playbackBeat w a s = counted 2) ∧ (reaches 2 → ends 2)) ∧
    (s.clock.state = .running ∨ s.clock.state = .stalled →
      s.clock.expected = none ∨ s.clock.expected = some (w.index, a) →
      (¬ reaches (s.clock.frames + 2) → playbackBeat w a s = counted (s.clock.frames + 2)) ∧
      (reaches (s.clock.frames + 2) → ends (s.clock.frames + 2))) ∧
    (s.clock.state = .running ∨ s.clock.state = .stalled → s.clock.expected ≠ none →
      s.clock.expected ≠ some (w.index, a) →
      playbackBeat w a s = signalled 6 { s with clock := { s.clock with expected := next } })

/-! ### Bands -/

/-- R74 to R79, R82, R85, R88, R90 with R64 to R68, R80 and R81: every beat of a request accepted in a SCANOUT window is
received in beat order and treated by the latches then in force. After a beat the in-band flags give its own bands; a band is
latched only on entry with a song loaded, a lyric latch after the four steps of chain sequencing, LINE_LATE being event 7. A
beat in no band, or in a band whose latch is invalid, is PASSed; any other is TRANSFORMed, its two pixels drawn by the latch
at the latched row and columns, as the acceptance fixes them (DEDUCED, notes/assumptions/8.md). -/
def Obligations.ScanoutBeatsLatchOnEntry : Prop :=
  (∀ (r : BusRequest) (win : Nat → Win) (s : State), Acceptable r s → r.dir = .read →
    let addr := fun k => r.addr + BitVec.ofNat 32 (8 * k)
    let offset := fun k => (addr k - (win k).base).toNat
    let after := fun n => (List.range n).foldl (fun u k => scanoutState (offset k) u) s
    (∀ k, k < r.beats → ∃ unit, matchBeat s.anchorSel s.anchor .read r.tag (addr k) = .window (win k) .scanout unit) →
    ∃ b l, exec (.requestAccept r) s = .next { after r.beats with bus := b } ∧ b.list = s.bus.list ++ [l] ∧ l.request = r ∧
      ∀ k, k < r.beats → l.beats[k]? =
        some { addr := addr k, treatment := scanoutTreatment (offset k) (after (k + 1)) }) ∧
  ∀ (f : Nat) (s : State),
    let m := s.anchor.bytes
    let t := scanoutState f s
    let row := f / strideG m
    let inL := bandTop m ≤ row ∧ row < bandTop m + 2 * lineHeight m
    let inG := guideTop m ≤ row ∧ row < guideTop m + guideHeight m ∧ ¬ inL
    (t.compositor.inLyric = true ↔ inL) ∧ (t.compositor.inGuide = true ↔ inG) ∧
    ((¬ inL ∨ s.compositor.inLyric = true ∨ s.clock.state = .idle) →
      t.compositor.lyricLatch = s.compositor.lyricLatch ∧ t.lyrics = s.lyrics ∧ t.events = s.events ∧
        t.statusGen = s.statusGen) ∧
    ((¬ inG ∨ s.compositor.inGuide = true ∨ s.clock.state = .idle) →
      t.compositor.guideLatch = s.compositor.guideLatch) ∧
    (inL → s.compositor.inLyric = false → s.clock.state ≠ .idle →
      (∃ l, t.compositor.lyricLatch = some l ∧ LyricLatched s t.lyrics l) ∧
      ∃ late, Sequenced (latchTimeRuled s.clock) (lineLead m) (scrollDuration m) s.lyrics t.lyrics late ∧
        (late → t = signalled 7 { s with lyrics := t.lyrics, compositor := t.compositor }) ∧
        (¬ late → t = { s with lyrics := t.lyrics, compositor := t.compositor })) ∧
    (inG → s.compositor.inGuide = false → s.clock.state ≠ .idle →
      ∃ g, t.compositor.guideLatch = some g ∧ GuideLatched s g) ∧
    (¬ inL → ¬ inG → scanoutTreatment f t = .pass) ∧
    (inL → t.compositor.lyricLatch = none → scanoutTreatment f t = .pass) ∧
    (inG → t.compositor.guideLatch = none → scanoutTreatment f t = .pass) ∧
    (∀ l, inL → t.compositor.lyricLatch = some l → scanoutTreatment f t =
      .transform (lyricPaint l t.lyrics.strips (f / l.stride) (f % l.stride / 4))
        (lyricPaint l t.lyrics.strips (f / l.stride) (f % l.stride / 4 + 1))) ∧
    (∀ g, inG → t.compositor.guideLatch = some g → scanoutTreatment f t =
      .transform (guidePaint g (f / g.stride) (f % g.stride / 4)) (guidePaint g (f / g.stride) (f % g.stride / 4 + 1))) ∧
    t = { s with
      lyrics := t.lyrics, events := t.events, statusGen := t.statusGen
      compositor := { s.compositor with
        inLyric := t.compositor.inLyric, inGuide := t.compositor.inGuide, lyricLatch := t.compositor.lyricLatch
        guideLatch := t.compositor.guideLatch } }

/-- R83, R86, R87, R89, R91: what a lyric latch and a guide latch draw at a row and a column, in the manual's order of
precedence. R84, R89: what is drawn does to a pixel: each colour byte of a blended pixel is floor((bg (3 - c) + fg c + 1) / 3),
an opaque one is the colour's, and byte 3 is memory's. -/
def Obligations.LyricBlendRoundsToNearest : Prop :=
  (∀ (fg : Colour) (c : Nat) (px : BitVec 32), c ≤ 3 →
    let out := paintPixel (.blend fg c) px
    let byte := fun (i : Nat) (v : Byte) => (out.extractLsb' (8 * i) 8).toNat =
      ((px.extractLsb' (8 * i) 8).toNat * (3 - c) + v.toNat * c + 1) / 3
    byte 0 fg.blue ∧ byte 1 fg.green ∧ byte 2 fg.red ∧ out.extractLsb' 24 8 = px.extractLsb' 24 8) ∧
  (∀ (fg : Colour) (px : BitVec 32), paintPixel .pass px = px ∧ (paintPixel (.solid fg) px).extractLsb' 0 8 = fg.blue ∧
    (paintPixel (.solid fg) px).extractLsb' 8 8 = fg.green ∧ (paintPixel (.solid fg) px).extractLsb' 16 8 = fg.red ∧
    (paintPixel (.solid fg) px).extractLsb' 24 8 = px.extractLsb' 24 8) ∧
  (∀ (l : LyricLatch) (strips : Vector StripBuf 4) (r x : Nat),
    let v := r - l.bandTop + l.offset
    let i := v / l.height
    let n := v % l.height * l.width + x
    let passed := l.width ≤ x ∨ r < l.bandTop ∨ l.bandTop + 2 * l.height ≤ r ∨ 3 * l.height ≤ v ∨ l.lines.length ≤ i ∨
      (i = 2 ∧ l.blankBelow = true)
    (passed → lyricPaint l strips r x = .pass) ∧
    (¬ passed → ∀ y, l.lines[i]? = some y →
      ∃ fg, lyricPaint l strips r x =
          .blend fg (((strips[y.buffer]).bytes.read (64 + n / 4)).toNat / 2 ^ (2 * (n % 4)) % 4) ∧
        (y.wipe ≤ x → fg = l.unsung) ∧
        (x < y.wipe → (y.part = .a → fg = l.sung.a) ∧ (y.part = .b → fg = l.sung.b) ∧ (y.part = .both → fg = l.sung.both)))) ∧
  ∀ (g : GuideLatch) (r x : Nat),
    let y := r - g.guideTop
    let column := fun time : Nat =>
      max 0 (min (g.width : Int) ((g.nowColumn : Int) + ((time : Int) - (g.time : Int)) * (g.width : Int) / (g.span : Int)))
    let laneRow := fun lane : Int =>
      (g.guideHeight : Int) - (lane + 1) * (g.laneHeight : Int) ≤ (y : Int) ∧ (y : Int) < (g.guideHeight : Int) - lane * (g.laneHeight : Int)
    let marker := fun k : Marker => (g.nowColumn : Int) - 2 ≤ (x : Int) ∧ x < g.nowColumn + 2 ∧ laneRow k.lane
    let bar := fun n : VisibleNote => column n.start ≤ (x : Int) ∧ (x : Int) < column n.stop ∧
      laneRow (max 0 (min ((g.lanes : Int) - 1) ((n.note : Int) + g.key - (g.floorNote : Int))))
    let passed := g.width ≤ x ∨ r < g.guideTop ∨ g.guideTop + g.guideHeight ≤ r ∨
      (g.bandTop ≤ r ∧ r < g.bandTop + 2 * g.height)
    (passed → guidePaint g r x = .pass) ∧
    (¬ passed → ∀ pre k post, g.markers = pre ++ k :: post → (∀ j ∈ pre, ¬ marker j) → marker k →
      guidePaint g r x = .solid g.markerColours[k.channel]) ∧
    (¬ passed → (∀ k ∈ g.markers, ¬ marker k) →
      (∀ pre n post, g.notes = pre ++ n :: post → (∀ j ∈ pre, ¬ bar j) → bar n →
        ∃ colour, guidePaint g r x = .solid colour ∧ (n.part = .a → colour = g.sung.a) ∧ (n.part = .b → colour = g.sung.b) ∧
          (n.part = .both → colour = g.sung.both)) ∧
      ((∀ n ∈ g.notes, ¬ bar n) → guidePaint g r x = .pass))

/-! ### Estimates and scores -/

/-- R101 to R107: the energy is the floor of the mean magnitude of the 512 samples, at most 32,768. Below the recorded
threshold the estimate is unvoiced QUIET; else with no picked lag unvoiced NO_LAG; else with 2 D(L*) above S unvoiced
NOISY; each with lag 0 and pitch 0. Else it is voiced: its lag is 16 L* + off16, from 248 to 3976, and its pitch the index
of R106, by integer-power boundaries. Position, state, epoch and folding are the frame's. -/
def Obligations.EstimateFollowsFrame : Prop :=
  ∀ f : Flight, f.samples.length = 512 →
    let x := f.samples
    let energy := (x.map (fun y => y.toInt.natAbs)).sum / 512
    let estimate := fun (cause : Cause) (lag pitch : Nat) =>
      ({ voiced := decide (cause = .none), cause := cause, energy := energy, lag := lag, pitch := pitch
         position := f.position, state := f.state, epoch := f.epoch, folding := f.folding } : Estimate)
    energy ≤ 32768 ∧
    (energy < f.voicing → f.estimate = estimate .quiet 0 0) ∧
    (f.voicing ≤ energy → (∀ lag, ¬ PickedLag x lag) → f.estimate = estimate .noLag 0 0) ∧
    (∀ lag, f.voicing ≤ energy → PickedLag x lag → boundRuled x lag < 2 * differenceRuled x lag →
      f.estimate = estimate .noisy 0 0) ∧
    (∀ lag, f.voicing ≤ energy → PickedLag x lag → 2 * differenceRuled x lag ≤ boundRuled x lag →
      ∃ lagQ pitch, f.estimate = estimate .none lagQ pitch ∧ (lagQ : Int) = 16 * (lag : Int) + offsetRuled x lag ∧
        (248 ≤ lagQ ∧ lagQ ≤ 3976) ∧ PitchRuled lagQ pitch)

/-- R115: the parts of notes that a channel's part matches. -/
def Obligations.PartMatching : Prop :=
  (∀ p : Part, Part.accepts .a p = true ↔ p = .a ∨ p = .both) ∧ (∀ p : Part, Part.accepts .b p = true ↔ p = .b ∨ p = .both) ∧
    (∀ p : Part, Part.accepts .both p = true) ∧ ∀ p : Part, Part.accepts .off p = false

/-- R116 to R121: ESTIMATE_POSTING makes the estimate the channel's latest. A frame that fails one of conditions 1 to 5 of
R116 changes nothing more. A frame that meets them and finds no active note closes the open note, if there is one; a
scorable one first closes a note open on another slot, and is then counted with the credit of R119 and R120 into the open
note or a fresh one. Each close advances the score generation. -/
def Obligations.EstimatePostingCreditsScorableFrames : Prop :=
  ∀ (c : Fin 4) (s : State) (f : Flight), s.busResetLow = false → s.flights[c] = some f →
    let old := s.score.channels[c]
    let x : Channel := { old with latest := f.estimate }
    let time := f.position - s.clock.captureLatency - 16
    let judged := f.state = .running ∧ f.epoch = s.clock.epoch ∧ old.part ≠ .off ∧ old.frames < 65535 ∧
      s.clock.captureLatency + 16 ≤ f.position
    let leaves := fun (y : Channel) (closes : Count32) => exec (.estimatePosting c) s = .next
      { s with
        flights := setAt s.flights c none
        score := { s.score with channels := setAt s.score.channels c y, gen := s.score.gen + closes } }
    f.estimate.position = f.position ∧ f.estimate.state = f.state ∧ f.estimate.epoch = f.epoch ∧
    f.estimate.folding = f.folding ∧
    (¬ judged → leaves x 0) ∧
    (judged → (∀ i, ¬ NoteContains s.melody old.part time i) →
      (old.openNote = none → leaves x 0) ∧
      ∀ o, old.openNote = some o → leaves (closedRuled s.clock.onsetTolerance x o) 1) ∧
    (judged → ∀ slot, ActiveNote s.melody old.part time slot →
      ∃ k, k ≤ 4 ∧ CreditAsRuled old (noteByte s.melody slot) f.estimate k ∧
        ((∀ o, old.openNote = some o → o.slot = slot) → leaves (countedRuled x s.melody slot time k) 0) ∧
        ∀ o, old.openNote = some o → o.slot ≠ slot →
          leaves (countedRuled (closedRuled s.clock.onsetTolerance x o) s.melody slot time k) 1)

/-- R49, R122, R125, R126, R129, R165, R166: the completion of a posting: the last-result record with the finals and flags of
the totals, the lead and the requester; the scoreboard entry of a handset whose song ended COMPLETE, and no other; the encore
promotion; the retire and its evaluation; RESULT_POSTED (event 4) and QUEUE_CHANGED (event 14). -/
def Obligations.ResultPostingCompletes : Prop :=
  ∀ (s : State) (p : Posting), s.score.posting = some p →
    let m := s.anchor.bytes
    let final := fun c : Fin 4 => finalRuled (s.score.channels[c])
    let leads := fun c : Fin 4 => (s.score.channels[c]).part = .a ∨ (s.score.channels[c]).part = .both
    ∃ t, exec .resultPostingComplete s = .next t ∧
      t.clock = { s.clock with postingDone := true } ∧ t.score.posting = none ∧ t.score.gen = s.score.gen + 1 ∧
      t.score.channels = s.score.channels ∧ t.score.result.valid = true ∧ t.score.result.song = s.clock.song ∧
      t.score.result.source = s.clock.source ∧ t.score.result.outcome = p.outcome ∧
      (∀ c : Fin 4, t.score.result.finals[c] = final c) ∧
      (∀ c : Fin 4, t.score.result.lead = some c ↔ leads c ∧ ∀ j, j < c → ¬ leads j) ∧
      (∀ n, s.queue.nowPlaying = some n → t.score.result.requester = n.requester) ∧
      (s.queue.nowPlaying = none → t.score.result.requester = .none) ∧
      (∀ h : Fin 16,
        (¬ (p.outcome = .complete ∧ t.score.result.requester = .handset h) → t.score.board[h] = s.score.board[h]) ∧
        (p.outcome = .complete → t.score.result.requester = .handset h →
          (t.score.board[h]).completed = min ((s.score.board[h]).completed + 1) 255 ∧
          (t.score.result.lead = none →
            (t.score.board[h]).last = (s.score.board[h]).last ∧ (t.score.board[h]).best = (s.score.board[h]).best) ∧
          ∀ c, t.score.result.lead = some c →
            (t.score.board[h]).last = (final c).score ∧
              (t.score.board[h]).best = max (s.score.board[h]).best (final c).score)) ∧
      t.events.getLsbD 4 = true ∧ t.events.getLsbD 14 = true ∧ (∀ n, n ≠ 4 → n ≠ 14 → t.events.getLsbD n = s.events.getLsbD n) ∧
      t.queue.nowPlaying = none ∧ t.queue.nextTag = s.queue.nextTag ∧
      (let promotes := fun (h : Fin 16) (c : Fin 4) => p.outcome = .complete ∧ encoreThreshold m ≠ 0 ∧
          t.score.result.requester = .handset h ∧ t.score.result.lead = some c ∧ encoreThreshold m ≤ (final c).score
        let retired := fun (es : List Entry) (moves : Count32) => t.queue.entries = evaluated t es ∧
          t.queue.gen = s.queue.gen + 1 + moves + (if evaluated t es = es then 0 else 1)
        ((∀ h c, promotes h c → ∀ e ∈ s.queue.entries, e.requester ≠ .handset h) → retired s.queue.entries 0) ∧
        ∀ h c pre passed e back, promotes h c → s.queue.entries = pre ++ passed ++ e :: back → e.requester = .handset h →
          (∀ x ∈ pre ++ passed, x.requester ≠ .handset h) → passed.length ≤ encoreSteps m → (∀ x ∈ passed, x.pin = false) →
          (passed.length = encoreSteps m ∨ pre = [] ∨ ∃ x, pre.getLast? = some x ∧ x.pin = true) →
          retired (pre ++ e :: passed ++ back) (if passed = [] then 0 else 1)) ∧
      t = { s with clock := t.clock, score := t.score, queue := t.queue, events := t.events, statusGen := t.statusGen }

/-- R127: SCORE_CLEAR_BOARD. -/
def Obligations.ClearBoardZeroesScoreboard : Prop :=
  ∀ (slot : CmdSlot) (s : State), s.busUp = true →
    ∃ board : Vector BoardEntry 16, (∀ h : Fin 16, board[h] = { completed := 0, last := 0, best := 0 }) ∧
      exec (.scoreClearBoard slot) s = .next
        (afterCommand slot 0x20 .done { s with score := { s.score with board := board, gen := s.score.gen + 1 } })

/-! ### The queue and the room -/

/-- R160: the budget of a standby evaluation, from the room time, the effective standby percent and what the current song
still needs. R161: what its first-fit walk leaves: WAITING entries as they were, the QUEUED durations within the budget, each
STANDBY entry too long for what the QUEUED ones ahead of it leave, and no other field changed. -/
def Obligations.StandbyWalkIsFirstFit : Prop :=
  (∀ s : State,
    let percent := rangedField (s.anchor.bytes.read 0x147).toNat 90 50 100
    let needs :=
      if s.clock.state = .loaded ∨ s.clock.state = .armed ∨ s.clock.state = .running ∨ s.clock.state = .stalled then
        (s.clock.duration - s.clock.position + 999) / 1000
      else 0
    (s.room.state = .opened → s.budget = s.room.remaining * percent / 100 - needs) ∧
    (s.room.state ≠ .opened → s.budget = 0) ∧ ∀ es, evaluated s es = standbyWalk s.budget 0 es) ∧
  ∀ (budget : Nat) (es : List Entry),
    let out := standbyWalk budget 0 es
    let load := fun l : List Entry => ((l.filter (fun e => decide (e.state = .queued))).map Entry.duration).sum
    out.map (fun e => { e with state := .queued }) = es.map (fun e => { e with state := .queued }) ∧
      load out ≤ budget ∧
      (∀ (n : Nat) (x e : Entry), es[n]? = some x → out[n]? = some e → (x.state = .waiting ↔ e.state = .waiting)) ∧
      ∀ (n : Nat) (e : Entry), out[n]? = some e → e.state = .standby → budget < load (out.take n) + e.duration

/-- R151: the tag an added entry takes is the first from the next tag on, wrapping from 255 to 1, that neither an entry
nor the now-playing record carries. -/
def Obligations.NewTagIsFirstFree : Prop :=
  ∀ s : State, QueueSound s → s.queue.entries.length < 48 →
    ∃ n, n < 255 ∧ s.queue.freeTag = (s.queue.nextTag - 1 + n) % 255 + 1 ∧ s.queue.tagUsed s.queue.freeTag = false ∧
      ∀ k, k < n → s.queue.tagUsed ((s.queue.nextTag - 1 + k) % 255 + 1) = true

/-- R155: QUEUE_INSERT, its refusals in their order, and the entry it places: the n-th for a position n from 1 to the entry
count, else at the tail. -/
def Obligations.QueueInsertPlacesStaffEntry : Prop :=
  ∀ (slot : CmdSlot) (a : InsertArgs) (s : State), s.busUp = true →
    (a.song.toNat = 0 ∨ 999999 < a.song.toNat ∨ 48 < a.position.toNat ∨ a.duration.toNat = 0 ∨ 1800 < a.duration.toNat ∨
        2 < a.difficulty.toNat ∨ a.key.toInt < -6 ∨ 6 < a.key.toInt ∨ 1 < a.duet.toNat ∨ 1 < a.pin.toNat →
      exec (.queueInsert slot a) s = .next (afterCommand slot 0x30 .refusedArgument s)) ∧
    (1 ≤ a.song.toNat → a.song.toNat ≤ 999999 → a.position.toNat ≤ 48 → 1 ≤ a.duration.toNat → a.duration.toNat ≤ 1800 →
      -6 ≤ a.key.toInt → a.key.toInt ≤ 6 → a.duet.toNat ≤ 1 → a.pin.toNat ≤ 1 →
      ∀ diff, difficultyOf a.difficulty = some diff →
      (s.room.state = .closed → exec (.queueInsert slot a) s = .next (afterCommand slot 0x30 .refusedState s)) ∧
      (s.room.state ≠ .closed → (∃ e ∈ s.queue.entries, e.song = a.song.toNat) →
        exec (.queueInsert slot a) s = .next (afterCommand slot 0x30 .refusedDuplicate s)) ∧
      (s.room.state ≠ .closed → (∀ e ∈ s.queue.entries, e.song ≠ a.song.toNat) → 48 ≤ s.queue.entries.length →
        exec (.queueInsert slot a) s = .next (afterCommand slot 0x30 .refusedFull s)) ∧
      (s.room.state ≠ .closed → (∀ e ∈ s.queue.entries, e.song ≠ a.song.toNat) → s.queue.entries.length < 48 →
        ∃ es,
          PlacedAt s.queue.entries a.position.toNat
            { tag := s.queue.freeTag, song := a.song.toNat, requester := .staff, difficulty := diff, key := a.key.toInt
              duet := decide (a.duet = 1), pin := decide (a.pin = 1), repeats := 0, duration := a.duration.toNat
              state := .queued } es ∧
          exec (.queueInsert slot a) s = .next (afterCommand slot 0x30 .done
            (afterQueueChange es (if s.queue.freeTag = 255 then 1 else s.queue.freeTag + 1) s))))

/-- R156 to R159: the staff commands on the entry that a tag names, and their refusals of a tag no entry carries and of
arguments out of range. A QUEUE_MOVE that leaves the entry where it was is DONE and still evaluates. -/
def Obligations.TagCommandsActOnTheirEntry : Prop :=
  ∀ (slot : CmdSlot) (tag : Byte) (s : State), s.busUp = true → tag ≠ 0 →
    (∀ pre e post, s.queue.entries = pre ++ e :: post → (∀ x ∈ pre, x.tag ≠ tag.toNat) → e.tag = tag.toNat →
      exec (.queueRemove slot tag) s = .next
        (afterCommand slot 0x31 .done (afterQueueChange (pre ++ post) s.queue.nextTag s)) ∧
      (∀ position : Byte, position.toNat ≤ 48 → ∃ es, PlacedAt (pre ++ post) position.toNat e es ∧
        (es ≠ s.queue.entries → exec (.queueMove slot tag position) s = .next
          (afterCommand slot 0x32 .done (afterQueueChange es s.queue.nextTag s))) ∧
        (es = s.queue.entries → evaluated s es = es →
          exec (.queueMove slot tag position) s = .next (afterCommand slot 0x32 .done s)) ∧
        (es = s.queue.entries → evaluated s es ≠ es → exec (.queueMove slot tag position) s = .next
          (afterCommand slot 0x32 .done (signalled 14
            { s with queue := { s.queue with entries := evaluated s es, gen := s.queue.gen + 1 } })))) ∧
      (e.state = .waiting → exec (.queueConfirm slot tag) s = .next
        (afterCommand slot 0x33 .done (afterQueueChange (pre ++ { e with state := .queued } :: post) s.queue.nextTag s))) ∧
      (e.state ≠ .waiting → exec (.queueConfirm slot tag) s = .next (afterCommand slot 0x33 .refusedState s)) ∧
      (∀ setting : Byte, setting.toNat ≤ 1 → exec (.queuePin slot tag setting) s = .next
        (afterCommand slot 0x34 .done
          (if e.pin = decide (setting = 1) then s
          else signalled 14 { s with queue := { s.queue with
            entries := pre ++ { e with pin := decide (setting = 1) } :: post, gen := s.queue.gen + 1 } })))) ∧
    ((∀ e ∈ s.queue.entries, e.tag ≠ tag.toNat) →
      exec (.queueRemove slot tag) s = .next (afterCommand slot 0x31 .refusedNotFound s) ∧
      exec (.queueConfirm slot tag) s = .next (afterCommand slot 0x33 .refusedNotFound s) ∧
      (∀ position : Byte, position.toNat ≤ 48 →
        exec (.queueMove slot tag position) s = .next (afterCommand slot 0x32 .refusedNotFound s)) ∧
      (∀ setting : Byte, setting.toNat ≤ 1 →
        exec (.queuePin slot tag setting) s = .next (afterCommand slot 0x34 .refusedNotFound s))) ∧
    exec (.queueRemove slot 0) s = .next (afterCommand slot 0x31 .refusedArgument s) ∧
    exec (.queueConfirm slot 0) s = .next (afterCommand slot 0x33 .refusedArgument s) ∧
    (∀ any position : Byte, any = 0 ∨ 48 < position.toNat →
      exec (.queueMove slot any position) s = .next (afterCommand slot 0x32 .refusedArgument s)) ∧
    (∀ any setting : Byte, any = 0 ∨ 1 < setting.toNat →
      exec (.queuePin slot any setting) s = .next (afterCommand slot 0x34 .refusedArgument s))

/-- R169, R137: ROOM_OPEN, its refusals and the booking it begins: the queue emptied, every handset's record as the column of
R137 gives it, the scoreboard cleared. The events raised are HANDSET_CHANGE (12) when a record's state changes, QUEUE_CHANGED
(14) when the queue held an entry, and ROOM_TIME_LOW (15) at 300 seconds or below. -/
def Obligations.RoomOpenBeginsBooking : Prop :=
  ∀ (slot : CmdSlot) (seconds : BitVec 32) (s : State), s.busUp = true →
    (seconds.toNat < 60 ∨ 86400 < seconds.toNat →
      exec (.roomOpen slot seconds) s = .next (afterCommand slot 0x50 .refusedArgument s)) ∧
    (60 ≤ seconds.toNat → seconds.toNat ≤ 86400 → s.room.state ≠ .closed →
      exec (.roomOpen slot seconds) s = .next (afterCommand slot 0x50 .refusedState s)) ∧
    (60 ≤ seconds.toNat → seconds.toNat ≤ 86400 → s.room.state = .closed →
      ∃ t, exec (.roomOpen slot seconds) s = .next t ∧ t.intake = doneRecord slot 0x50 ∧
        t.room = { state := .opened, remaining := seconds.toNat, timer := some s.timebase } ∧
        t.queue = emptiedQueue s.queue ∧ HandsetsVacated s t ∧
        (∀ h : Fin 16, t.score.board[h] = { completed := 0, last := 0, best := 0 }) ∧
        Raised s t 1 (fun n => n = 12 ∧ (∃ h : Fin 16, (s.handsets.records[h]).state ≠ .absent) ∨
          n = 14 ∧ s.queue.entries ≠ [] ∨ n = 15 ∧ seconds.toNat ≤ 300) ∧
        t = { s with
          room := t.room, queue := t.queue, handsets := t.handsets, score := { s.score with board := t.score.board }
          events := t.events, statusGen := t.statusGen, intake := t.intake })

/-- R170, R171, R137: ROOM_EXTEND by room state, and ROOM_CLOSE with no song in the way, which empties the queue and leaves
every handset's record as the column of R137 gives it. HANDSET_CHANGE is event 12, QUEUE_CHANGED 14 and ROOM_TIME_LOW 15,
which an extension in OPEN never raises. -/
def Obligations.RoomExtendAndClose : Prop :=
  ∀ (slot : CmdSlot) (seconds : BitVec 32) (s : State), s.busUp = true →
    (1 ≤ seconds.toNat → seconds.toNat ≤ 86400 → s.room.state ≠ .closed →
      ∃ t, exec (.roomExtend slot seconds) s = .next t ∧ t.intake = doneRecord slot 0x51 ∧
        t.room =
          (if s.room.state = .opened then { s.room with remaining := min (s.room.remaining + seconds.toNat) 86400 }
          else { state := .opened, remaining := seconds.toNat, timer := some s.timebase }) ∧
        t.queue = evaluatedQueue t s.queue ∧
        Raised s t 1 (fun n => n = 14 ∧ evaluated t s.queue.entries ≠ s.queue.entries ∨
          n = 15 ∧ s.room.state = .overtime ∧ seconds.toNat ≤ 300) ∧
        t = { s with room := t.room, queue := t.queue, events := t.events, statusGen := t.statusGen, intake := t.intake }) ∧
    (1 ≤ seconds.toNat → seconds.toNat ≤ 86400 → s.room.state = .closed →
      exec (.roomExtend slot seconds) s = .next (afterCommand slot 0x51 .refusedState s)) ∧
    (seconds = 0 ∨ 86400 < seconds.toNat →
      exec (.roomExtend slot seconds) s = .next (afterCommand slot 0x51 .refusedArgument s)) ∧
    (s.room.state ≠ .closed → (s.clock.state = .idle ∨ s.clock.state = .ended ∧ s.clock.postingDone = true) →
      ∃ t, exec (.roomClose slot) s = .next t ∧ t.intake = doneRecord slot 0x52 ∧
        t.room = { state := .closed, remaining := 0, timer := none } ∧ t.queue = emptiedQueue s.queue ∧ HandsetsVacated s t ∧
        Raised s t 1 (fun n => n = 12 ∧ (∃ h : Fin 16, (s.handsets.records[h]).state ≠ .absent) ∨
          n = 14 ∧ s.queue.entries ≠ []) ∧
        t = { s with
          room := t.room, queue := t.queue, handsets := t.handsets, events := t.events, statusGen := t.statusGen
          intake := t.intake }) ∧
    (s.room.state = .closed ∨ s.clock.state.inProgress = true ∨ s.clock.state = .ended ∧ s.clock.postingDone = false →
      exec (.roomClose slot) s = .next (afterCommand slot 0x52 .refusedState s))

/-- R168: the expiry of the one-second timer in an open room. ROOM_TIME_LOW (event 15) is raised at 300 and at 0 alone; the
evaluation runs at every multiple of 60, and QUEUE_CHANGED is event 14. -/
def Obligations.RoomSecondCountsDown : Prop :=
  ∀ (s : State) (start : Count32), s.room.state = .opened → s.room.timer = some start →
    1000 ≤ (s.timebase - start).toNat → 1 ≤ s.room.remaining →
    ∃ t, exec .roomSecondExpiry s = .next t ∧
      t.room = (if s.room.remaining = 1 then { state := .overtime, remaining := 0, timer := none }
        else { state := .opened, remaining := s.room.remaining - 1, timer := some s.timebase }) ∧
      ((s.room.remaining - 1) % 60 = 0 → t.queue = evaluatedQueue t s.queue) ∧
      ((s.room.remaining - 1) % 60 ≠ 0 → t = { s with room := t.room }) ∧
      Raised s t 0 (fun n => n = 15 ∧ (s.room.remaining = 301 ∨ s.room.remaining = 1) ∨
        n = 14 ∧ (s.room.remaining - 1) % 60 = 0 ∧ evaluated t s.queue.entries ≠ s.queue.entries) ∧
      t = { s with room := t.room, queue := t.queue, events := t.events, statusGen := t.statusGen }

/-! ### Handsets -/

/-- R135, R138, R140, R142, R148: a check-valid packet in a closed room, from a BARRED handset, or repeated. The first two are
answered, with REPLY_READY (event 13) and nothing else raised. A repeat is not: an ABSENT handset it makes present, with
HANDSET_CHANGE (event 12) and the skip test, and REPLY_READY stays as it was. The handset generation counts each reply, each
last sequence that changes and each arrival. -/
def Obligations.PacketsTurnedBack : Prop :=
  ∀ (c : Instr) (head : PacketHead) (s : State), packetOf c = some head → c.wellFormed = true → s.busUp = true →
    let r := s.handsets.records[head.handset]
    (s.room.state = .closed →
      ∃ t, exec c s = .next t ∧ Replied s t head .roomClosed 0 0 ∧ PacketFrame s t head.handset ∧ t.queue = s.queue ∧
        SkipTested s t False ∧ t.handsets.gen = s.handsets.gen + 1 ∧ Raised s t 0 (fun n => n = 13) ∧
        t.handsets.records[head.handset] =
          { r with reply := (t.handsets.records[head.handset]).reply, replyCount := r.replyCount + 1 }) ∧
    (s.room.state ≠ .closed → r.state = .barred →
      ∃ t, exec c s = .next t ∧ Replied s t head .barred 0 0 ∧ PacketFrame s t head.handset ∧ t.queue = s.queue ∧
        SkipTested s t False ∧
        t.handsets.gen = s.handsets.gen + (if r.lastSequence = some head.sequence then 1 else 2) ∧
        Raised s t 0 (fun n => n = 13) ∧
        t.handsets.records[head.handset] =
          { r with
            lastSequence := some head.sequence, quietCount := 0, quiet := some s.timebase
            reply := (t.handsets.records[head.handset]).reply, replyCount := r.replyCount + 1 }) ∧
    (s.room.state ≠ .closed → r.state ≠ .barred → r.lastSequence = some head.sequence →
      ∃ t, exec c s = .next t ∧ PacketFrame s t head.handset ∧ t.queue = s.queue ∧ SkipTested s t (r.state = .absent) ∧
        t.handsets.gen = s.handsets.gen + (if r.state = .absent then 1 else 0) ∧
        Raised s t 0 (fun n => n = 12 ∧ r.state = .absent ∨
          n = 11 ∧ s.handsets.votePassed = false ∧ t.handsets.votePassed = true) ∧
        t.handsets.records[head.handset] = { r with state := r.arrived, presence := some s.timebase })

/-- R136, R139: a packet of kind 1 to 4 with a flags field above 1, a REQUEST, CANCEL or VOTE_SKIP with a song number out of
range, a REQUEST with another field out of range, and a packet of an unknown kind are answered FIELD_ERROR: the counter rises
by 8, the state following it, and the low-battery flag and the vote are kept; R142: what the handset generation counts. -/
def Obligations.FieldErrors : Prop :=
  ∀ (head : PacketHead) (s : State), Handled s head →
    let fails := fun c : Instr => ∃ t, exec c s = .next t ∧ Replied s t head .fieldError 0 0 ∧
      PacketFrame s t head.handset ∧ t.queue = s.queue ∧ Concluded s t head False ∧
      (t.handsets.records[head.handset]).lowBattery = (s.handsets.records[head.handset]).lowBattery ∧
      (t.handsets.records[head.handset]).vote = (s.handsets.records[head.handset]).vote
    (∀ f : RequestFields, 1 < head.flags.toNat ∨ f.song.toNat = 0 ∨ 999999 < f.song.toNat ∨ 2 < f.difficulty.toNat ∨
      f.key.toInt < -6 ∨ 6 < f.key.toInt ∨ f.duration.toNat = 0 ∨ 1800 < f.duration.toNat → fails (.request head f)) ∧
    (∀ song : BitVec 24, 1 < head.flags.toNat ∨ song.toNat = 0 ∨ 999999 < song.toNat →
      fails (.cancel head song) ∧ fails (.voteSkip head song)) ∧
    (1 < head.flags.toNat → fails (.query head)) ∧
    ∀ kind : Byte, 5 ≤ kind.toNat → fails (.packetUnknownKind head kind)

/-- R139, R143 to R145, R154: what a REQUEST whose fields pass comes to, check by check: the filters' action, a merge, the
quota, the full queue, the append; and what every outcome leaves in the handset's record, the queue and the events. R142,
R153: what the handset and queue generations count; a merge counts only when the repeat count changes. -/
def Obligations.RequestDecidedByChecks : Prop :=
  ∀ (head : PacketHead) (f : RequestFields) (diff : Difficulty) (s : State), Handled s head → head.flags.toNat ≤ 1 →
    1 ≤ f.song.toNat → f.song.toNat ≤ 999999 → difficultyOf f.difficulty = some diff → -6 ≤ f.key.toInt → f.key.toInt ≤ 6 →
    1 ≤ f.duration.toNat → f.duration.toNat ≤ 1800 →
    let h := head.handset
    let action := filterAction s.anchor.bytes f.song.toNat h
    let waits := decide (action = .wait) || decide ((s.handsets.records[h]).arrived = .held)
    let entry : Entry :=
      { tag := s.queue.freeTag, song := f.song.toNat, requester := .handset h, difficulty := diff, key := f.key.toInt
        duet := decide (f.duet ≠ 0), pin := false, repeats := 0, duration := f.duration.toNat
        state := if waits then .waiting else .queued }
    let own := (s.queue.entries.filter (fun e => decide (e.requester = .handset h))).length
    FiltersGive s.anchor.bytes f.song.toNat h action ∧
    (∀ n, s.queue.nowPlaying = some n → n.requester = .handset h → s.queue.pendingCount h = own + 1) ∧
    ((∀ n, s.queue.nowPlaying = some n → n.requester ≠ .handset h) → s.queue.pendingCount h = own) ∧
    ∃ t, exec (.request head f) s = .next t ∧ PacketFrame s t h ∧ Concluded s t head False ∧
      (t.handsets.records[h]).lowBattery = decide (head.flags ≠ 0) ∧
      (t.handsets.records[h]).vote = (s.handsets.records[h]).vote ∧
      (action = .deny → Replied s t head .denied 0 0 ∧ t.queue = s.queue) ∧
      (action ≠ .deny → ∀ pre e post, s.queue.entries = pre ++ e :: post → (∀ x ∈ pre, x.song ≠ f.song.toNat) →
        e.song = f.song.toNat →
        Replied s t head .merged e.tag (pre.length + 1) ∧
          (e.repeats < 7 → t.queue =
            { s.queue with entries := pre ++ { e with repeats := e.repeats + 1 } :: post, gen := s.queue.gen + 1 }) ∧
          (7 ≤ e.repeats → t.queue = s.queue)) ∧
      (action ≠ .deny → (∀ e ∈ s.queue.entries, e.song ≠ f.song.toNat) →
        handsetQuota s.anchor.bytes ≤ s.queue.pendingCount h → Replied s t head .quotaFull 0 0 ∧ t.queue = s.queue) ∧
      (action ≠ .deny → (∀ e ∈ s.queue.entries, e.song ≠ f.song.toNat) →
        s.queue.pendingCount h < handsetQuota s.anchor.bytes → 48 ≤ s.queue.entries.length →
        Replied s t head .queueFull 0 0 ∧ t.queue = s.queue) ∧
      (action ≠ .deny → (∀ e ∈ s.queue.entries, e.song ≠ f.song.toNat) →
        s.queue.pendingCount h < handsetQuota s.anchor.bytes → s.queue.entries.length < 48 →
        t.queue = evaluatedQueue s
            { s.queue with
              entries := s.queue.entries ++ [entry], nextTag := if s.queue.freeTag = 255 then 1 else s.queue.freeTag + 1
              gen := s.queue.gen + 1 } ∧
          ∃ e, t.queue.entries[s.queue.entries.length]? = some e ∧
            Replied s t head
              (match e.state with
              | .waiting => .waiting
              | .queued => .accepted
              | .standby => .standby)
              s.queue.freeTag (s.queue.entries.length + 1))

/-- R139, R142, R146 to R149, R153, R156: CANCEL, VOTE_SKIP and QUERY whose fields pass, and what each leaves in the
handset's record, the queue, the generation counts and the events; a vote that is added runs the skip test. -/
def Obligations.CancelVoteAndQuery : Prop :=
  ∀ (head : PacketHead) (song : BitVec 24) (s : State), Handled s head → head.flags.toNat ≤ 1 →
    1 ≤ song.toNat → song.toNat ≤ 999999 →
    let h := head.handset
    let own := fun e : Entry => e.song = song.toNat ∧ e.requester = .handset h
    let valid := (s.clock.state = .armed ∨ s.clock.state = .running ∨ s.clock.state = .stalled) ∧ s.clock.song = song.toNat
    let record := fun t : State => t.handsets.records[h]
    (∃ t, exec (.cancel head song) s = .next t ∧ PacketFrame s t h ∧ Concluded s t head False ∧
      (record t).lowBattery = decide (head.flags ≠ 0) ∧ (record t).vote = (record s).vote ∧
      (∀ pre e post, s.queue.entries = pre ++ e :: post → (∀ x ∈ pre, ¬ own x) → own e →
        t.queue = evaluatedQueue s { s.queue with entries := pre ++ post, gen := s.queue.gen + 1 } ∧
          Replied s t head .cancelled e.tag 0) ∧
      ((∀ e ∈ s.queue.entries, ¬ own e) → t.queue = s.queue ∧ Replied s t head .notFound 0 0)) ∧
    (∃ t, exec (.voteSkip head song) s = .next t ∧ PacketFrame s t h ∧ t.queue = s.queue ∧
      Concluded s t head (valid ∧ (record s).vote = false) ∧ (record t).lowBattery = decide (head.flags ≠ 0) ∧
      (valid → Replied s t head .voted 0 0 ∧ (record t).vote = true) ∧
      (¬ valid → Replied s t head .voteStale 0 0 ∧ (record t).vote = (record s).vote)) ∧
    (∃ t, exec (.query head) s = .next t ∧ PacketFrame s t h ∧ t.queue = s.queue ∧ Concluded s t head False ∧
      (record t).lowBattery = decide (head.flags ≠ 0) ∧ (record t).vote = (record s).vote ∧
      (∀ pre e post, s.queue.entries = pre ++ e :: post → (∀ x ∈ pre, x.requester ≠ .handset h) →
        e.requester = .handset h → Replied s t head .queryOk e.tag (pre.length + 1)) ∧
      ((∀ e ∈ s.queue.entries, e.requester ≠ .handset h) → Replied s t head .queryOk 0 0))

/-- R138, R140, R141, R142, R148: a presence expiry makes the handset ABSENT, a quiet interval counts or at 128 releases, and
HANDSET_RELEASE releases a BARRED handset. Each change of the active count raises HANDSET_CHANGE (event 12) and runs the skip
test; the handset generation counts the state and the error counter, and no timer. -/
def Obligations.HandsetTimersAndRelease : Prop :=
  ∀ (h : Fin 16) (s : State),
    let r := s.handsets.records[h]
    let freed := { r with state := .active, errors := 0, quietCount := 0, quiet := none, presence := some s.timebase }
    let freedCount := if r.errors = 0 then 1 else 2
    let becomes := fun (t : State) (record : Handset) (count records : Nat) (moved : Prop) =>
      t.handsets.records[h] = record ∧ (∀ k : Fin 16, k ≠ h → t.handsets.records[k] = s.handsets.records[k]) ∧
        t.handsets.gen = s.handsets.gen + BitVec.ofNat 32 count ∧ SkipTested s t moved ∧
        Raised s t records (fun n => n = 12 ∧ moved ∨
          n = 11 ∧ s.handsets.votePassed = false ∧ t.handsets.votePassed = true) ∧
        t = { s with
          handsets := t.handsets, events := t.events, statusGen := t.statusGen, intake := t.intake }
    (∀ start, r.presence = some start → r.state = .active ∨ r.state = .held →
      presenceMinutes s.anchor.bytes * 60000 ≤ (s.timebase - start).toNat →
      ∃ t, exec (.presenceExpiry h) s = .next t ∧ t.intake = s.intake ∧
        becomes t { r with state := .absent, presence := none } 1 0 True) ∧
    (∀ start, r.quiet = some start → r.state = .barred → 10000 ≤ (s.timebase - start).toNat →
      ∃ t, exec (.quietIntervalExpiry h) s = .next t ∧ t.intake = s.intake ∧
        (r.quietCount < 127 →
          becomes t { r with quietCount := r.quietCount + 1, quiet := some s.timebase } 0 0 False) ∧
        (127 ≤ r.quietCount → becomes t freed freedCount 0 True)) ∧
    (∀ slot, s.busUp = true → r.state = .barred →
      ∃ t, exec (.handsetRelease slot (BitVec.ofNat 8 h.val)) s = .next t ∧ t.intake = doneRecord slot 0x40 ∧
        becomes t freed freedCount 1 True) ∧
    (∀ slot, s.busUp = true → r.state ≠ .barred →
      exec (.handsetRelease slot (BitVec.ofNat 8 h.val)) s = .next (afterCommand slot 0x40 .refusedState s)) ∧
    (∀ (slot : CmdSlot) (id : Byte), s.busUp = true → 15 < id.toNat →
      exec (.handsetRelease slot id) s = .next (afterCommand slot 0x40 .refusedArgument s))

/-! ### Invariants -/

/-- Every step keeps the canonical form of every byte store. -/
def Obligations.StepKeepsMemoriesCanonical : Prop := ∀ s t : State, MemoriesCanonical s → step s = .next t → MemoriesCanonical t

/-- R139: every step keeps each handset's state in accord with its error counter and its timers with its state. -/
def Obligations.StepKeepsHandsetsSound : Prop := ∀ s t : State, HandsetsSound s → step s = .next t → HandsetsSound t

/-- R150: every step keeps the queue within 48 entries, with no song and no tag twice. -/
def Obligations.StepKeepsQueueSound : Prop := ∀ s t : State, QueueSound s → step s = .next t → QueueSound t

/-- R57, R64: every step keeps the chain equal to the set of SHOWN buffers, within three lines. -/
def Obligations.StepKeepsChainSound : Prop := ∀ s t : State, ChainSound s → step s = .next t → ChainSound t

/-- R2: every step keeps the completion list within 8 requests, with data outstanding for the newest alone, and the serials
that tie forwarded runs to their requests distinct and given out. -/
def Obligations.StepKeepsBusSound : Prop := ∀ s t : State, BusSound s → step s = .next t → BusSound t

/-- Every step keeps the song state in accord with the stall timer, the position, the posting and the now-playing record. -/
def Obligations.StepKeepsClockSound : Prop := ∀ s t : State, ClockSound s → step s = .next t → ClockSound t

/-- Every step keeps scores in 0 to 10,000 and the counts of notes, onsets and credits in accord. -/
def Obligations.StepKeepsScoresSound : Prop := ∀ s t : State, ScoresSound s → step s = .next t → ScoresSound t

/-- Every step keeps frames in progress below 512 samples and the room's time in accord with its state. -/
def Obligations.StepKeepsFramersAndRoomSound : Prop :=
  (∀ s t : State, FramersSound s → step s = .next t → FramersSound t) ∧
    ∀ s t : State, RoomSound s → step s = .next t → RoomSound t

/-- The state after reset satisfies every invariant. -/
def Obligations.ResetIsSound : Prop :=
  MemoriesCanonical State.reset ∧ HandsetsSound State.reset ∧ QueueSound State.reset ∧ ChainSound State.reset ∧
    BusSound State.reset ∧ ClockSound State.reset ∧ ScoresSound State.reset ∧ FramersSound State.reset ∧
    RoomSound State.reset
end

