-- ==== Sys2Proof/Laws/State.lean ====
section
/-! SUPPORT. What each single update of the state leaves alone: one equation a field, true by rfl, which simp takes one by one. The
frame of `raise` stands here too, since every other frame rests on it. -/

namespace Sys2Proof.Machine

/-- Raising an event changes the flags and the status generation alone. -/
@[simp] theorem raise_frame (e : Event) (s : State) :
    (raise e s).resetLow = s.resetLow ∧ (raise e s).busResetLow = s.busResetLow ∧ (raise e s).anchorSel = s.anchorSel ∧
    (raise e s).timebase = s.timebase ∧ (raise e s).bus = s.bus ∧ (raise e s).blocked = s.blocked ∧
    (raise e s).anchor = s.anchor ∧ (raise e s).intake = s.intake ∧ (raise e s).clock = s.clock ∧
    (raise e s).lyrics = s.lyrics ∧ (raise e s).compositor = s.compositor ∧ (raise e s).framers = s.framers ∧
    (raise e s).flights = s.flights ∧ (raise e s).melody = s.melody ∧ (raise e s).score = s.score ∧
    (raise e s).parser = s.parser ∧ (raise e s).handsets = s.handsets ∧ (raise e s).queue = s.queue ∧
    (raise e s).room = s.room ∧ (raise e s).choices = s.choices ∧ (raise e s).pending = s.pending := by
  unfold raise; split <;> simp

/-- The same under a condition. -/
@[simp] theorem raiseIf_frame (c : Bool) (e : Event) (s : State) :
    (raiseIf c e s).resetLow = s.resetLow ∧ (raiseIf c e s).busResetLow = s.busResetLow ∧ (raiseIf c e s).anchorSel = s.anchorSel ∧
    (raiseIf c e s).timebase = s.timebase ∧ (raiseIf c e s).bus = s.bus ∧ (raiseIf c e s).blocked = s.blocked ∧
    (raiseIf c e s).anchor = s.anchor ∧ (raiseIf c e s).intake = s.intake ∧ (raiseIf c e s).clock = s.clock ∧
    (raiseIf c e s).lyrics = s.lyrics ∧ (raiseIf c e s).compositor = s.compositor ∧ (raiseIf c e s).framers = s.framers ∧
    (raiseIf c e s).flights = s.flights ∧ (raiseIf c e s).melody = s.melody ∧ (raiseIf c e s).score = s.score ∧
    (raiseIf c e s).parser = s.parser ∧ (raiseIf c e s).handsets = s.handsets ∧ (raiseIf c e s).queue = s.queue ∧
    (raiseIf c e s).room = s.room ∧ (raiseIf c e s).choices = s.choices ∧ (raiseIf c e s).pending = s.pending := by
  unfold raiseIf; split <;> simp

/-- setBus changes the bus path alone. -/
@[simp] theorem setBus_frame (b : BusPath) (s : State) :
    (setBus b s).resetLow = s.resetLow ∧ (setBus b s).busResetLow = s.busResetLow ∧ (setBus b s).anchorSel = s.anchorSel ∧
    (setBus b s).timebase = s.timebase ∧ (setBus b s).blocked = s.blocked ∧ (setBus b s).anchor = s.anchor ∧
    (setBus b s).intake = s.intake ∧ (setBus b s).events = s.events ∧ (setBus b s).statusGen = s.statusGen ∧
    (setBus b s).clock = s.clock ∧ (setBus b s).lyrics = s.lyrics ∧ (setBus b s).compositor = s.compositor ∧
    (setBus b s).framers = s.framers ∧ (setBus b s).flights = s.flights ∧ (setBus b s).melody = s.melody ∧
    (setBus b s).score = s.score ∧ (setBus b s).parser = s.parser ∧ (setBus b s).handsets = s.handsets ∧
    (setBus b s).queue = s.queue ∧ (setBus b s).room = s.room ∧ (setBus b s).choices = s.choices ∧
    (setBus b s).pending = s.pending := by
  and_intros <;> rfl

/-- setFirstHalf changes the intake alone. -/
@[simp] theorem setFirstHalf_frame (h : Option FirstHalf) (s : State) :
    (setFirstHalf h s).resetLow = s.resetLow ∧ (setFirstHalf h s).busResetLow = s.busResetLow ∧ (setFirstHalf h s).anchorSel = s.anchorSel ∧
    (setFirstHalf h s).timebase = s.timebase ∧ (setFirstHalf h s).bus = s.bus ∧ (setFirstHalf h s).blocked = s.blocked ∧
    (setFirstHalf h s).anchor = s.anchor ∧ (setFirstHalf h s).events = s.events ∧ (setFirstHalf h s).statusGen = s.statusGen ∧
    (setFirstHalf h s).clock = s.clock ∧ (setFirstHalf h s).lyrics = s.lyrics ∧ (setFirstHalf h s).compositor = s.compositor ∧
    (setFirstHalf h s).framers = s.framers ∧ (setFirstHalf h s).flights = s.flights ∧ (setFirstHalf h s).melody = s.melody ∧
    (setFirstHalf h s).score = s.score ∧ (setFirstHalf h s).parser = s.parser ∧ (setFirstHalf h s).handsets = s.handsets ∧
    (setFirstHalf h s).queue = s.queue ∧ (setFirstHalf h s).room = s.room ∧ (setFirstHalf h s).choices = s.choices ∧
    (setFirstHalf h s).pending = s.pending := by
  and_intros <;> rfl

/-- setAssembly changes the parser alone. -/
@[simp] theorem setAssembly_frame (a : Option Assembly) (s : State) :
    (setAssembly a s).resetLow = s.resetLow ∧ (setAssembly a s).busResetLow = s.busResetLow ∧ (setAssembly a s).anchorSel = s.anchorSel ∧
    (setAssembly a s).timebase = s.timebase ∧ (setAssembly a s).bus = s.bus ∧ (setAssembly a s).blocked = s.blocked ∧
    (setAssembly a s).anchor = s.anchor ∧ (setAssembly a s).intake = s.intake ∧ (setAssembly a s).events = s.events ∧
    (setAssembly a s).statusGen = s.statusGen ∧ (setAssembly a s).clock = s.clock ∧ (setAssembly a s).lyrics = s.lyrics ∧
    (setAssembly a s).compositor = s.compositor ∧ (setAssembly a s).framers = s.framers ∧ (setAssembly a s).flights = s.flights ∧
    (setAssembly a s).melody = s.melody ∧ (setAssembly a s).score = s.score ∧ (setAssembly a s).handsets = s.handsets ∧
    (setAssembly a s).queue = s.queue ∧ (setAssembly a s).room = s.room ∧ (setAssembly a s).choices = s.choices ∧
    (setAssembly a s).pending = s.pending := by
  and_intros <;> rfl

/-- countGarbled changes the parser alone. -/
@[simp] theorem countGarbled_frame (s : State) :
    (countGarbled s).resetLow = s.resetLow ∧ (countGarbled s).busResetLow = s.busResetLow ∧ (countGarbled s).anchorSel = s.anchorSel ∧
    (countGarbled s).timebase = s.timebase ∧ (countGarbled s).bus = s.bus ∧ (countGarbled s).blocked = s.blocked ∧
    (countGarbled s).anchor = s.anchor ∧ (countGarbled s).intake = s.intake ∧ (countGarbled s).events = s.events ∧
    (countGarbled s).statusGen = s.statusGen ∧ (countGarbled s).clock = s.clock ∧ (countGarbled s).lyrics = s.lyrics ∧
    (countGarbled s).compositor = s.compositor ∧ (countGarbled s).framers = s.framers ∧ (countGarbled s).flights = s.flights ∧
    (countGarbled s).melody = s.melody ∧ (countGarbled s).score = s.score ∧ (countGarbled s).handsets = s.handsets ∧
    (countGarbled s).queue = s.queue ∧ (countGarbled s).room = s.room ∧ (countGarbled s).choices = s.choices ∧
    (countGarbled s).pending = s.pending := by
  and_intros <;> rfl

/-- setRoom changes the room alone. -/
@[simp] theorem setRoom_frame (st : RoomState) (r : Nat) (x : Option Count32) (s : State) :
    (setRoom st r x s).resetLow = s.resetLow ∧ (setRoom st r x s).busResetLow = s.busResetLow ∧ (setRoom st r x s).anchorSel = s.anchorSel ∧
    (setRoom st r x s).timebase = s.timebase ∧ (setRoom st r x s).bus = s.bus ∧ (setRoom st r x s).blocked = s.blocked ∧
    (setRoom st r x s).anchor = s.anchor ∧ (setRoom st r x s).intake = s.intake ∧ (setRoom st r x s).events = s.events ∧
    (setRoom st r x s).statusGen = s.statusGen ∧ (setRoom st r x s).clock = s.clock ∧ (setRoom st r x s).lyrics = s.lyrics ∧
    (setRoom st r x s).compositor = s.compositor ∧ (setRoom st r x s).framers = s.framers ∧ (setRoom st r x s).flights = s.flights ∧
    (setRoom st r x s).melody = s.melody ∧ (setRoom st r x s).score = s.score ∧ (setRoom st r x s).parser = s.parser ∧
    (setRoom st r x s).handsets = s.handsets ∧ (setRoom st r x s).queue = s.queue ∧ (setRoom st r x s).choices = s.choices ∧
    (setRoom st r x s).pending = s.pending := by
  and_intros <;> rfl

/-- putFramer changes the framers alone. -/
@[simp] theorem putFramer_frame (c : Fin 4) (f : Framer) (s : State) :
    (putFramer c f s).resetLow = s.resetLow ∧ (putFramer c f s).busResetLow = s.busResetLow ∧ (putFramer c f s).anchorSel = s.anchorSel ∧
    (putFramer c f s).timebase = s.timebase ∧ (putFramer c f s).bus = s.bus ∧ (putFramer c f s).blocked = s.blocked ∧
    (putFramer c f s).anchor = s.anchor ∧ (putFramer c f s).intake = s.intake ∧ (putFramer c f s).events = s.events ∧
    (putFramer c f s).statusGen = s.statusGen ∧ (putFramer c f s).clock = s.clock ∧ (putFramer c f s).lyrics = s.lyrics ∧
    (putFramer c f s).compositor = s.compositor ∧ (putFramer c f s).flights = s.flights ∧ (putFramer c f s).melody = s.melody ∧
    (putFramer c f s).score = s.score ∧ (putFramer c f s).parser = s.parser ∧ (putFramer c f s).handsets = s.handsets ∧
    (putFramer c f s).queue = s.queue ∧ (putFramer c f s).room = s.room ∧ (putFramer c f s).choices = s.choices ∧
    (putFramer c f s).pending = s.pending := by
  and_intros <;> rfl

/-- restartFramers changes the framers alone. -/
@[simp] theorem restartFramers_frame (s : State) :
    (restartFramers s).resetLow = s.resetLow ∧ (restartFramers s).busResetLow = s.busResetLow ∧ (restartFramers s).anchorSel = s.anchorSel ∧
    (restartFramers s).timebase = s.timebase ∧ (restartFramers s).bus = s.bus ∧ (restartFramers s).blocked = s.blocked ∧
    (restartFramers s).anchor = s.anchor ∧ (restartFramers s).intake = s.intake ∧ (restartFramers s).events = s.events ∧
    (restartFramers s).statusGen = s.statusGen ∧ (restartFramers s).clock = s.clock ∧ (restartFramers s).lyrics = s.lyrics ∧
    (restartFramers s).compositor = s.compositor ∧ (restartFramers s).flights = s.flights ∧ (restartFramers s).melody = s.melody ∧
    (restartFramers s).score = s.score ∧ (restartFramers s).parser = s.parser ∧ (restartFramers s).handsets = s.handsets ∧
    (restartFramers s).queue = s.queue ∧ (restartFramers s).room = s.room ∧ (restartFramers s).choices = s.choices ∧
    (restartFramers s).pending = s.pending := by
  and_intros <;> rfl

/-- putFlight changes the estimates in flight alone. -/
@[simp] theorem putFlight_frame (c : Fin 4) (f : Option Flight) (s : State) :
    (putFlight c f s).resetLow = s.resetLow ∧ (putFlight c f s).busResetLow = s.busResetLow ∧ (putFlight c f s).anchorSel = s.anchorSel ∧
    (putFlight c f s).timebase = s.timebase ∧ (putFlight c f s).bus = s.bus ∧ (putFlight c f s).blocked = s.blocked ∧
    (putFlight c f s).anchor = s.anchor ∧ (putFlight c f s).intake = s.intake ∧ (putFlight c f s).events = s.events ∧
    (putFlight c f s).statusGen = s.statusGen ∧ (putFlight c f s).clock = s.clock ∧ (putFlight c f s).lyrics = s.lyrics ∧
    (putFlight c f s).compositor = s.compositor ∧ (putFlight c f s).framers = s.framers ∧ (putFlight c f s).melody = s.melody ∧
    (putFlight c f s).score = s.score ∧ (putFlight c f s).parser = s.parser ∧ (putFlight c f s).handsets = s.handsets ∧
    (putFlight c f s).queue = s.queue ∧ (putFlight c f s).room = s.room ∧ (putFlight c f s).choices = s.choices ∧
    (putFlight c f s).pending = s.pending := by
  and_intros <;> rfl

/-- putChannel changes the Score Engine alone. -/
@[simp] theorem putChannel_frame (c : Fin 4) (x : Channel) (s : State) :
    (putChannel c x s).resetLow = s.resetLow ∧ (putChannel c x s).busResetLow = s.busResetLow ∧ (putChannel c x s).anchorSel = s.anchorSel ∧
    (putChannel c x s).timebase = s.timebase ∧ (putChannel c x s).bus = s.bus ∧ (putChannel c x s).blocked = s.blocked ∧
    (putChannel c x s).anchor = s.anchor ∧ (putChannel c x s).intake = s.intake ∧ (putChannel c x s).events = s.events ∧
    (putChannel c x s).statusGen = s.statusGen ∧ (putChannel c x s).clock = s.clock ∧ (putChannel c x s).lyrics = s.lyrics ∧
    (putChannel c x s).compositor = s.compositor ∧ (putChannel c x s).framers = s.framers ∧ (putChannel c x s).flights = s.flights ∧
    (putChannel c x s).melody = s.melody ∧ (putChannel c x s).parser = s.parser ∧ (putChannel c x s).handsets = s.handsets ∧
    (putChannel c x s).queue = s.queue ∧ (putChannel c x s).room = s.room ∧ (putChannel c x s).choices = s.choices ∧
    (putChannel c x s).pending = s.pending := by
  and_intros <;> rfl

/-- bumpScore changes the Score Engine alone. -/
@[simp] theorem bumpScore_frame (n : Nat) (s : State) :
    (bumpScore n s).resetLow = s.resetLow ∧ (bumpScore n s).busResetLow = s.busResetLow ∧ (bumpScore n s).anchorSel = s.anchorSel ∧
    (bumpScore n s).timebase = s.timebase ∧ (bumpScore n s).bus = s.bus ∧ (bumpScore n s).blocked = s.blocked ∧
    (bumpScore n s).anchor = s.anchor ∧ (bumpScore n s).intake = s.intake ∧ (bumpScore n s).events = s.events ∧
    (bumpScore n s).statusGen = s.statusGen ∧ (bumpScore n s).clock = s.clock ∧ (bumpScore n s).lyrics = s.lyrics ∧
    (bumpScore n s).compositor = s.compositor ∧ (bumpScore n s).framers = s.framers ∧ (bumpScore n s).flights = s.flights ∧
    (bumpScore n s).melody = s.melody ∧ (bumpScore n s).parser = s.parser ∧ (bumpScore n s).handsets = s.handsets ∧
    (bumpScore n s).queue = s.queue ∧ (bumpScore n s).room = s.room ∧ (bumpScore n s).choices = s.choices ∧
    (bumpScore n s).pending = s.pending := by
  and_intros <;> rfl

/-- closeAllNotes changes the Score Engine alone. -/
@[simp] theorem closeAllNotes_frame (s : State) :
    (closeAllNotes s).resetLow = s.resetLow ∧ (closeAllNotes s).busResetLow = s.busResetLow ∧ (closeAllNotes s).anchorSel = s.anchorSel ∧
    (closeAllNotes s).timebase = s.timebase ∧ (closeAllNotes s).bus = s.bus ∧ (closeAllNotes s).blocked = s.blocked ∧
    (closeAllNotes s).anchor = s.anchor ∧ (closeAllNotes s).intake = s.intake ∧ (closeAllNotes s).events = s.events ∧
    (closeAllNotes s).statusGen = s.statusGen ∧ (closeAllNotes s).clock = s.clock ∧ (closeAllNotes s).lyrics = s.lyrics ∧
    (closeAllNotes s).compositor = s.compositor ∧ (closeAllNotes s).framers = s.framers ∧ (closeAllNotes s).flights = s.flights ∧
    (closeAllNotes s).melody = s.melody ∧ (closeAllNotes s).parser = s.parser ∧ (closeAllNotes s).handsets = s.handsets ∧
    (closeAllNotes s).queue = s.queue ∧ (closeAllNotes s).room = s.room ∧ (closeAllNotes s).choices = s.choices ∧
    (closeAllNotes s).pending = s.pending := by
  and_intros <;> rfl

/-- clearBoard changes the Score Engine alone. -/
@[simp] theorem clearBoard_frame (s : State) :
    (clearBoard s).resetLow = s.resetLow ∧ (clearBoard s).busResetLow = s.busResetLow ∧ (clearBoard s).anchorSel = s.anchorSel ∧
    (clearBoard s).timebase = s.timebase ∧ (clearBoard s).bus = s.bus ∧ (clearBoard s).blocked = s.blocked ∧
    (clearBoard s).anchor = s.anchor ∧ (clearBoard s).intake = s.intake ∧ (clearBoard s).events = s.events ∧
    (clearBoard s).statusGen = s.statusGen ∧ (clearBoard s).clock = s.clock ∧ (clearBoard s).lyrics = s.lyrics ∧
    (clearBoard s).compositor = s.compositor ∧ (clearBoard s).framers = s.framers ∧ (clearBoard s).flights = s.flights ∧
    (clearBoard s).melody = s.melody ∧ (clearBoard s).parser = s.parser ∧ (clearBoard s).handsets = s.handsets ∧
    (clearBoard s).queue = s.queue ∧ (clearBoard s).room = s.room ∧ (clearBoard s).choices = s.choices ∧
    (clearBoard s).pending = s.pending := by
  and_intros <;> rfl

/-- loadChannels changes the Score Engine alone. -/
@[simp] theorem loadChannels_frame (p : Byte) (d : Difficulty) (k : Int) (s : State) :
    (loadChannels p d k s).resetLow = s.resetLow ∧ (loadChannels p d k s).busResetLow = s.busResetLow ∧ (loadChannels p d k s).anchorSel = s.anchorSel ∧
    (loadChannels p d k s).timebase = s.timebase ∧ (loadChannels p d k s).bus = s.bus ∧ (loadChannels p d k s).blocked = s.blocked ∧
    (loadChannels p d k s).anchor = s.anchor ∧ (loadChannels p d k s).intake = s.intake ∧ (loadChannels p d k s).events = s.events ∧
    (loadChannels p d k s).statusGen = s.statusGen ∧ (loadChannels p d k s).clock = s.clock ∧ (loadChannels p d k s).lyrics = s.lyrics ∧
    (loadChannels p d k s).compositor = s.compositor ∧ (loadChannels p d k s).framers = s.framers ∧ (loadChannels p d k s).flights = s.flights ∧
    (loadChannels p d k s).melody = s.melody ∧ (loadChannels p d k s).parser = s.parser ∧ (loadChannels p d k s).handsets = s.handsets ∧
    (loadChannels p d k s).queue = s.queue ∧ (loadChannels p d k s).room = s.room ∧ (loadChannels p d k s).choices = s.choices ∧
    (loadChannels p d k s).pending = s.pending := by
  and_intros <;> rfl

/-- bumpHandsets changes the Handset Table alone. -/
@[simp] theorem bumpHandsets_frame (n : Nat) (s : State) :
    (bumpHandsets n s).resetLow = s.resetLow ∧ (bumpHandsets n s).busResetLow = s.busResetLow ∧ (bumpHandsets n s).anchorSel = s.anchorSel ∧
    (bumpHandsets n s).timebase = s.timebase ∧ (bumpHandsets n s).bus = s.bus ∧ (bumpHandsets n s).blocked = s.blocked ∧
    (bumpHandsets n s).anchor = s.anchor ∧ (bumpHandsets n s).intake = s.intake ∧ (bumpHandsets n s).events = s.events ∧
    (bumpHandsets n s).statusGen = s.statusGen ∧ (bumpHandsets n s).clock = s.clock ∧ (bumpHandsets n s).lyrics = s.lyrics ∧
    (bumpHandsets n s).compositor = s.compositor ∧ (bumpHandsets n s).framers = s.framers ∧ (bumpHandsets n s).flights = s.flights ∧
    (bumpHandsets n s).melody = s.melody ∧ (bumpHandsets n s).score = s.score ∧ (bumpHandsets n s).parser = s.parser ∧
    (bumpHandsets n s).queue = s.queue ∧ (bumpHandsets n s).room = s.room ∧ (bumpHandsets n s).choices = s.choices ∧
    (bumpHandsets n s).pending = s.pending := by
  and_intros <;> rfl

/-- putHandset changes the Handset Table alone. -/
@[simp] theorem putHandset_frame (h : Fin 16) (r : Handset) (s : State) :
    (putHandset h r s).resetLow = s.resetLow ∧ (putHandset h r s).busResetLow = s.busResetLow ∧ (putHandset h r s).anchorSel = s.anchorSel ∧
    (putHandset h r s).timebase = s.timebase ∧ (putHandset h r s).bus = s.bus ∧ (putHandset h r s).blocked = s.blocked ∧
    (putHandset h r s).anchor = s.anchor ∧ (putHandset h r s).intake = s.intake ∧ (putHandset h r s).events = s.events ∧
    (putHandset h r s).statusGen = s.statusGen ∧ (putHandset h r s).clock = s.clock ∧ (putHandset h r s).lyrics = s.lyrics ∧
    (putHandset h r s).compositor = s.compositor ∧ (putHandset h r s).framers = s.framers ∧ (putHandset h r s).flights = s.flights ∧
    (putHandset h r s).melody = s.melody ∧ (putHandset h r s).score = s.score ∧ (putHandset h r s).parser = s.parser ∧
    (putHandset h r s).queue = s.queue ∧ (putHandset h r s).room = s.room ∧ (putHandset h r s).choices = s.choices ∧
    (putHandset h r s).pending = s.pending := by
  and_intros <;> rfl

/-- clearVotes changes the Handset Table alone. -/
@[simp] theorem clearVotes_frame (s : State) :
    (clearVotes s).resetLow = s.resetLow ∧ (clearVotes s).busResetLow = s.busResetLow ∧ (clearVotes s).anchorSel = s.anchorSel ∧
    (clearVotes s).timebase = s.timebase ∧ (clearVotes s).bus = s.bus ∧ (clearVotes s).blocked = s.blocked ∧
    (clearVotes s).anchor = s.anchor ∧ (clearVotes s).intake = s.intake ∧ (clearVotes s).events = s.events ∧
    (clearVotes s).statusGen = s.statusGen ∧ (clearVotes s).clock = s.clock ∧ (clearVotes s).lyrics = s.lyrics ∧
    (clearVotes s).compositor = s.compositor ∧ (clearVotes s).framers = s.framers ∧ (clearVotes s).flights = s.flights ∧
    (clearVotes s).melody = s.melody ∧ (clearVotes s).score = s.score ∧ (clearVotes s).parser = s.parser ∧
    (clearVotes s).queue = s.queue ∧ (clearVotes s).room = s.room ∧ (clearVotes s).choices = s.choices ∧
    (clearVotes s).pending = s.pending := by
  and_intros <;> rfl

/-- putEntry changes the queue alone. -/
@[simp] theorem putEntry_frame (i : Nat) (e : Entry) (s : State) :
    (putEntry i e s).resetLow = s.resetLow ∧ (putEntry i e s).busResetLow = s.busResetLow ∧ (putEntry i e s).anchorSel = s.anchorSel ∧
    (putEntry i e s).timebase = s.timebase ∧ (putEntry i e s).bus = s.bus ∧ (putEntry i e s).blocked = s.blocked ∧
    (putEntry i e s).anchor = s.anchor ∧ (putEntry i e s).intake = s.intake ∧ (putEntry i e s).events = s.events ∧
    (putEntry i e s).statusGen = s.statusGen ∧ (putEntry i e s).clock = s.clock ∧ (putEntry i e s).lyrics = s.lyrics ∧
    (putEntry i e s).compositor = s.compositor ∧ (putEntry i e s).framers = s.framers ∧ (putEntry i e s).flights = s.flights ∧
    (putEntry i e s).melody = s.melody ∧ (putEntry i e s).score = s.score ∧ (putEntry i e s).parser = s.parser ∧
    (putEntry i e s).handsets = s.handsets ∧ (putEntry i e s).room = s.room ∧ (putEntry i e s).choices = s.choices ∧
    (putEntry i e s).pending = s.pending := by
  and_intros <;> rfl

/-- A melody beat changes the melody table alone. -/
@[simp] theorem melodyBeat_frame (f : Nat) (d : Data) (en : Enables) (s : State) :
    (melodyBeat f d en s).resetLow = s.resetLow ∧ (melodyBeat f d en s).busResetLow = s.busResetLow ∧ (melodyBeat f d en s).anchorSel = s.anchorSel ∧
    (melodyBeat f d en s).timebase = s.timebase ∧ (melodyBeat f d en s).bus = s.bus ∧ (melodyBeat f d en s).blocked = s.blocked ∧
    (melodyBeat f d en s).anchor = s.anchor ∧ (melodyBeat f d en s).intake = s.intake ∧ (melodyBeat f d en s).events = s.events ∧
    (melodyBeat f d en s).statusGen = s.statusGen ∧ (melodyBeat f d en s).clock = s.clock ∧ (melodyBeat f d en s).lyrics = s.lyrics ∧
    (melodyBeat f d en s).compositor = s.compositor ∧ (melodyBeat f d en s).framers = s.framers ∧ (melodyBeat f d en s).flights = s.flights ∧
    (melodyBeat f d en s).score = s.score ∧ (melodyBeat f d en s).parser = s.parser ∧ (melodyBeat f d en s).handsets = s.handsets ∧
    (melodyBeat f d en s).queue = s.queue ∧ (melodyBeat f d en s).room = s.room ∧ (melodyBeat f d en s).choices = s.choices ∧
    (melodyBeat f d en s).pending = s.pending := by
  and_intros <;> rfl

/-- A timeline beat changes the strips and tables of the lyrics alone. -/
@[simp] theorem timelineBeat_frame (f : Nat) (d : Data) (en : Enables) (s : State) :
    (timelineBeat f d en s).resetLow = s.resetLow ∧ (timelineBeat f d en s).busResetLow = s.busResetLow ∧ (timelineBeat f d en s).anchorSel = s.anchorSel ∧
    (timelineBeat f d en s).timebase = s.timebase ∧ (timelineBeat f d en s).bus = s.bus ∧ (timelineBeat f d en s).blocked = s.blocked ∧
    (timelineBeat f d en s).anchor = s.anchor ∧ (timelineBeat f d en s).intake = s.intake ∧ (timelineBeat f d en s).events = s.events ∧
    (timelineBeat f d en s).statusGen = s.statusGen ∧ (timelineBeat f d en s).clock = s.clock ∧ (timelineBeat f d en s).compositor = s.compositor ∧
    (timelineBeat f d en s).framers = s.framers ∧ (timelineBeat f d en s).flights = s.flights ∧ (timelineBeat f d en s).melody = s.melody ∧
    (timelineBeat f d en s).score = s.score ∧ (timelineBeat f d en s).parser = s.parser ∧ (timelineBeat f d en s).handsets = s.handsets ∧
    (timelineBeat f d en s).queue = s.queue ∧ (timelineBeat f d en s).room = s.room ∧ (timelineBeat f d en s).choices = s.choices ∧
    (timelineBeat f d en s).pending = s.pending := by
  and_intros <;> rfl

/-- clearChain changes the lyrics alone. -/
@[simp] theorem clearChain_frame (n : Nat) (s : State) :
    (clearChain n s).resetLow = s.resetLow ∧ (clearChain n s).busResetLow = s.busResetLow ∧ (clearChain n s).anchorSel = s.anchorSel ∧
    (clearChain n s).timebase = s.timebase ∧ (clearChain n s).bus = s.bus ∧ (clearChain n s).blocked = s.blocked ∧
    (clearChain n s).anchor = s.anchor ∧ (clearChain n s).intake = s.intake ∧ (clearChain n s).events = s.events ∧
    (clearChain n s).statusGen = s.statusGen ∧ (clearChain n s).clock = s.clock ∧ (clearChain n s).compositor = s.compositor ∧
    (clearChain n s).framers = s.framers ∧ (clearChain n s).flights = s.flights ∧ (clearChain n s).melody = s.melody ∧
    (clearChain n s).score = s.score ∧ (clearChain n s).parser = s.parser ∧ (clearChain n s).handsets = s.handsets ∧
    (clearChain n s).queue = s.queue ∧ (clearChain n s).room = s.room ∧ (clearChain n s).choices = s.choices ∧
    (clearChain n s).pending = s.pending := by
  and_intros <;> rfl

/-- freeStrips changes the lyrics alone. -/
@[simp] theorem freeStrips_frame (s : State) :
    (freeStrips s).resetLow = s.resetLow ∧ (freeStrips s).busResetLow = s.busResetLow ∧ (freeStrips s).anchorSel = s.anchorSel ∧
    (freeStrips s).timebase = s.timebase ∧ (freeStrips s).bus = s.bus ∧ (freeStrips s).blocked = s.blocked ∧
    (freeStrips s).anchor = s.anchor ∧ (freeStrips s).intake = s.intake ∧ (freeStrips s).events = s.events ∧
    (freeStrips s).statusGen = s.statusGen ∧ (freeStrips s).clock = s.clock ∧ (freeStrips s).compositor = s.compositor ∧
    (freeStrips s).framers = s.framers ∧ (freeStrips s).flights = s.flights ∧ (freeStrips s).melody = s.melody ∧
    (freeStrips s).score = s.score ∧ (freeStrips s).parser = s.parser ∧ (freeStrips s).handsets = s.handsets ∧
    (freeStrips s).queue = s.queue ∧ (freeStrips s).room = s.room ∧ (freeStrips s).choices = s.choices ∧
    (freeStrips s).pending = s.pending := by
  and_intros <;> rfl

/-- clearBands changes the compositor alone. -/
@[simp] theorem clearBands_frame (s : State) :
    (clearBands s).resetLow = s.resetLow ∧ (clearBands s).busResetLow = s.busResetLow ∧ (clearBands s).anchorSel = s.anchorSel ∧
    (clearBands s).timebase = s.timebase ∧ (clearBands s).bus = s.bus ∧ (clearBands s).blocked = s.blocked ∧
    (clearBands s).anchor = s.anchor ∧ (clearBands s).intake = s.intake ∧ (clearBands s).events = s.events ∧
    (clearBands s).statusGen = s.statusGen ∧ (clearBands s).clock = s.clock ∧ (clearBands s).lyrics = s.lyrics ∧
    (clearBands s).framers = s.framers ∧ (clearBands s).flights = s.flights ∧ (clearBands s).melody = s.melody ∧
    (clearBands s).score = s.score ∧ (clearBands s).parser = s.parser ∧ (clearBands s).handsets = s.handsets ∧
    (clearBands s).queue = s.queue ∧ (clearBands s).room = s.room ∧ (clearBands s).choices = s.choices ∧
    (clearBands s).pending = s.pending := by
  and_intros <;> rfl

/-- A guide latch changes the compositor alone. -/
@[simp] theorem takeGuideLatch_frame (s : State) :
    (takeGuideLatch s).resetLow = s.resetLow ∧ (takeGuideLatch s).busResetLow = s.busResetLow ∧ (takeGuideLatch s).anchorSel = s.anchorSel ∧
    (takeGuideLatch s).timebase = s.timebase ∧ (takeGuideLatch s).bus = s.bus ∧ (takeGuideLatch s).blocked = s.blocked ∧
    (takeGuideLatch s).anchor = s.anchor ∧ (takeGuideLatch s).intake = s.intake ∧ (takeGuideLatch s).events = s.events ∧
    (takeGuideLatch s).statusGen = s.statusGen ∧ (takeGuideLatch s).clock = s.clock ∧ (takeGuideLatch s).lyrics = s.lyrics ∧
    (takeGuideLatch s).framers = s.framers ∧ (takeGuideLatch s).flights = s.flights ∧ (takeGuideLatch s).melody = s.melody ∧
    (takeGuideLatch s).score = s.score ∧ (takeGuideLatch s).parser = s.parser ∧ (takeGuideLatch s).handsets = s.handsets ∧
    (takeGuideLatch s).queue = s.queue ∧ (takeGuideLatch s).room = s.room ∧ (takeGuideLatch s).choices = s.choices ∧
    (takeGuideLatch s).pending = s.pending := by
  and_intros <;> rfl

/-- countChoice counts a free choice alone. -/
@[simp] theorem countChoice_frame (s : State) :
    (countChoice s).resetLow = s.resetLow ∧ (countChoice s).busResetLow = s.busResetLow ∧ (countChoice s).anchorSel = s.anchorSel ∧
    (countChoice s).timebase = s.timebase ∧ (countChoice s).bus = s.bus ∧ (countChoice s).blocked = s.blocked ∧
    (countChoice s).anchor = s.anchor ∧ (countChoice s).intake = s.intake ∧ (countChoice s).events = s.events ∧
    (countChoice s).statusGen = s.statusGen ∧ (countChoice s).clock = s.clock ∧ (countChoice s).lyrics = s.lyrics ∧
    (countChoice s).compositor = s.compositor ∧ (countChoice s).framers = s.framers ∧ (countChoice s).flights = s.flights ∧
    (countChoice s).melody = s.melody ∧ (countChoice s).score = s.score ∧ (countChoice s).parser = s.parser ∧
    (countChoice s).handsets = s.handsets ∧ (countChoice s).queue = s.queue ∧ (countChoice s).room = s.room ∧
    (countChoice s).pending = s.pending := by
  and_intros <;> rfl

/-- A tick changes the timebase alone. -/
@[simp] theorem tick_frame (s : State) :
    (tick s).resetLow = s.resetLow ∧ (tick s).busResetLow = s.busResetLow ∧ (tick s).anchorSel = s.anchorSel ∧
    (tick s).bus = s.bus ∧ (tick s).blocked = s.blocked ∧ (tick s).anchor = s.anchor ∧
    (tick s).intake = s.intake ∧ (tick s).events = s.events ∧ (tick s).statusGen = s.statusGen ∧
    (tick s).clock = s.clock ∧ (tick s).lyrics = s.lyrics ∧ (tick s).compositor = s.compositor ∧
    (tick s).framers = s.framers ∧ (tick s).flights = s.flights ∧ (tick s).melody = s.melody ∧
    (tick s).score = s.score ∧ (tick s).parser = s.parser ∧ (tick s).handsets = s.handsets ∧
    (tick s).queue = s.queue ∧ (tick s).room = s.room ∧ (tick s).choices = s.choices ∧
    (tick s).pending = s.pending := by
  unfold tick; split <;> simp

end Sys2Proof.Machine
end

