-- ==== Sys2Proof/Laws/Frames.lean ====
section
/-! SUPPORT. What each shared operation leaves alone, field by field, from the frames of the updates it is made of. -/

namespace Sys2Proof.Machine

/-- A change of the queue reaches the queue and the events alone. -/
@[simp] theorem queueChanged_frame (s : State) :
    (queueChanged s).resetLow = s.resetLow ∧ (queueChanged s).busResetLow = s.busResetLow ∧ (queueChanged s).anchorSel = s.anchorSel ∧
    (queueChanged s).timebase = s.timebase ∧ (queueChanged s).bus = s.bus ∧ (queueChanged s).blocked = s.blocked ∧
    (queueChanged s).anchor = s.anchor ∧ (queueChanged s).intake = s.intake ∧ (queueChanged s).clock = s.clock ∧
    (queueChanged s).lyrics = s.lyrics ∧ (queueChanged s).compositor = s.compositor ∧ (queueChanged s).framers = s.framers ∧
    (queueChanged s).flights = s.flights ∧ (queueChanged s).melody = s.melody ∧ (queueChanged s).score = s.score ∧
    (queueChanged s).parser = s.parser ∧ (queueChanged s).handsets = s.handsets ∧ (queueChanged s).room = s.room ∧
    (queueChanged s).choices = s.choices ∧ (queueChanged s).pending = s.pending := by
  simp [queueChanged]

/-- A standby evaluation reaches the queue and the events alone. -/
@[simp] theorem standbyEvaluate_frame (s : State) :
    (standbyEvaluate s).resetLow = s.resetLow ∧ (standbyEvaluate s).busResetLow = s.busResetLow ∧ (standbyEvaluate s).anchorSel = s.anchorSel ∧
    (standbyEvaluate s).timebase = s.timebase ∧ (standbyEvaluate s).bus = s.bus ∧ (standbyEvaluate s).blocked = s.blocked ∧
    (standbyEvaluate s).anchor = s.anchor ∧ (standbyEvaluate s).intake = s.intake ∧ (standbyEvaluate s).clock = s.clock ∧
    (standbyEvaluate s).lyrics = s.lyrics ∧ (standbyEvaluate s).compositor = s.compositor ∧ (standbyEvaluate s).framers = s.framers ∧
    (standbyEvaluate s).flights = s.flights ∧ (standbyEvaluate s).melody = s.melody ∧ (standbyEvaluate s).score = s.score ∧
    (standbyEvaluate s).parser = s.parser ∧ (standbyEvaluate s).handsets = s.handsets ∧ (standbyEvaluate s).room = s.room ∧
    (standbyEvaluate s).choices = s.choices ∧ (standbyEvaluate s).pending = s.pending := by
  simp only [standbyEvaluate]; split <;> simp

/-- An addition reaches the queue and the events alone. -/
@[simp] theorem addEntry_frame (n : Nat) (e : Entry) (s : State) :
    (addEntry n e s).resetLow = s.resetLow ∧ (addEntry n e s).busResetLow = s.busResetLow ∧ (addEntry n e s).anchorSel = s.anchorSel ∧
    (addEntry n e s).timebase = s.timebase ∧ (addEntry n e s).bus = s.bus ∧ (addEntry n e s).blocked = s.blocked ∧
    (addEntry n e s).anchor = s.anchor ∧ (addEntry n e s).intake = s.intake ∧ (addEntry n e s).clock = s.clock ∧
    (addEntry n e s).lyrics = s.lyrics ∧ (addEntry n e s).compositor = s.compositor ∧ (addEntry n e s).framers = s.framers ∧
    (addEntry n e s).flights = s.flights ∧ (addEntry n e s).melody = s.melody ∧ (addEntry n e s).score = s.score ∧
    (addEntry n e s).parser = s.parser ∧ (addEntry n e s).handsets = s.handsets ∧ (addEntry n e s).room = s.room ∧
    (addEntry n e s).choices = s.choices ∧ (addEntry n e s).pending = s.pending := by
  simp [addEntry]

/-- A removal reaches the queue and the events alone. -/
@[simp] theorem removeEntry_frame (i : Nat) (s : State) :
    (removeEntry i s).resetLow = s.resetLow ∧ (removeEntry i s).busResetLow = s.busResetLow ∧ (removeEntry i s).anchorSel = s.anchorSel ∧
    (removeEntry i s).timebase = s.timebase ∧ (removeEntry i s).bus = s.bus ∧ (removeEntry i s).blocked = s.blocked ∧
    (removeEntry i s).anchor = s.anchor ∧ (removeEntry i s).intake = s.intake ∧ (removeEntry i s).clock = s.clock ∧
    (removeEntry i s).lyrics = s.lyrics ∧ (removeEntry i s).compositor = s.compositor ∧ (removeEntry i s).framers = s.framers ∧
    (removeEntry i s).flights = s.flights ∧ (removeEntry i s).melody = s.melody ∧ (removeEntry i s).score = s.score ∧
    (removeEntry i s).parser = s.parser ∧ (removeEntry i s).handsets = s.handsets ∧ (removeEntry i s).room = s.room ∧
    (removeEntry i s).choices = s.choices ∧ (removeEntry i s).pending = s.pending := by
  simp [removeEntry]

/-- A merge reaches the queue and the events alone. -/
@[simp] theorem mergeEntry_frame (i : Nat) (e : Entry) (s : State) :
    (mergeEntry i e s).resetLow = s.resetLow ∧ (mergeEntry i e s).busResetLow = s.busResetLow ∧ (mergeEntry i e s).anchorSel = s.anchorSel ∧
    (mergeEntry i e s).timebase = s.timebase ∧ (mergeEntry i e s).bus = s.bus ∧ (mergeEntry i e s).blocked = s.blocked ∧
    (mergeEntry i e s).anchor = s.anchor ∧ (mergeEntry i e s).intake = s.intake ∧ (mergeEntry i e s).clock = s.clock ∧
    (mergeEntry i e s).lyrics = s.lyrics ∧ (mergeEntry i e s).compositor = s.compositor ∧ (mergeEntry i e s).framers = s.framers ∧
    (mergeEntry i e s).flights = s.flights ∧ (mergeEntry i e s).melody = s.melody ∧ (mergeEntry i e s).score = s.score ∧
    (mergeEntry i e s).parser = s.parser ∧ (mergeEntry i e s).handsets = s.handsets ∧ (mergeEntry i e s).room = s.room ∧
    (mergeEntry i e s).choices = s.choices ∧ (mergeEntry i e s).pending = s.pending := by
  simp only [mergeEntry]; split <;> simp

/-- A move reaches the queue and the events alone. -/
@[simp] theorem moveEntry_frame (i n : Nat) (e : Entry) (s : State) :
    (moveEntry i n e s).resetLow = s.resetLow ∧ (moveEntry i n e s).busResetLow = s.busResetLow ∧ (moveEntry i n e s).anchorSel = s.anchorSel ∧
    (moveEntry i n e s).timebase = s.timebase ∧ (moveEntry i n e s).bus = s.bus ∧ (moveEntry i n e s).blocked = s.blocked ∧
    (moveEntry i n e s).anchor = s.anchor ∧ (moveEntry i n e s).intake = s.intake ∧ (moveEntry i n e s).clock = s.clock ∧
    (moveEntry i n e s).lyrics = s.lyrics ∧ (moveEntry i n e s).compositor = s.compositor ∧ (moveEntry i n e s).framers = s.framers ∧
    (moveEntry i n e s).flights = s.flights ∧ (moveEntry i n e s).melody = s.melody ∧ (moveEntry i n e s).score = s.score ∧
    (moveEntry i n e s).parser = s.parser ∧ (moveEntry i n e s).handsets = s.handsets ∧ (moveEntry i n e s).room = s.room ∧
    (moveEntry i n e s).choices = s.choices ∧ (moveEntry i n e s).pending = s.pending := by
  simp only [moveEntry]; split <;> simp

/-- Clearing the queue reaches the queue and the events alone. -/
@[simp] theorem clearQueue_frame (s : State) :
    (clearQueue s).resetLow = s.resetLow ∧ (clearQueue s).busResetLow = s.busResetLow ∧ (clearQueue s).anchorSel = s.anchorSel ∧
    (clearQueue s).timebase = s.timebase ∧ (clearQueue s).bus = s.bus ∧ (clearQueue s).blocked = s.blocked ∧
    (clearQueue s).anchor = s.anchor ∧ (clearQueue s).intake = s.intake ∧ (clearQueue s).clock = s.clock ∧
    (clearQueue s).lyrics = s.lyrics ∧ (clearQueue s).compositor = s.compositor ∧ (clearQueue s).framers = s.framers ∧
    (clearQueue s).flights = s.flights ∧ (clearQueue s).melody = s.melody ∧ (clearQueue s).score = s.score ∧
    (clearQueue s).parser = s.parser ∧ (clearQueue s).handsets = s.handsets ∧ (clearQueue s).room = s.room ∧
    (clearQueue s).choices = s.choices ∧ (clearQueue s).pending = s.pending := by
  simp only [clearQueue]; split <;> simp

/-- A take reaches the queue and the events alone. -/
@[simp] theorem takeSong_frame (n : NowPlaying) (es : List Entry) (s : State) :
    (takeSong n es s).resetLow = s.resetLow ∧ (takeSong n es s).busResetLow = s.busResetLow ∧ (takeSong n es s).anchorSel = s.anchorSel ∧
    (takeSong n es s).timebase = s.timebase ∧ (takeSong n es s).bus = s.bus ∧ (takeSong n es s).blocked = s.blocked ∧
    (takeSong n es s).anchor = s.anchor ∧ (takeSong n es s).intake = s.intake ∧ (takeSong n es s).clock = s.clock ∧
    (takeSong n es s).lyrics = s.lyrics ∧ (takeSong n es s).compositor = s.compositor ∧ (takeSong n es s).framers = s.framers ∧
    (takeSong n es s).flights = s.flights ∧ (takeSong n es s).melody = s.melody ∧ (takeSong n es s).score = s.score ∧
    (takeSong n es s).parser = s.parser ∧ (takeSong n es s).handsets = s.handsets ∧ (takeSong n es s).room = s.room ∧
    (takeSong n es s).choices = s.choices ∧ (takeSong n es s).pending = s.pending := by
  simp [takeSong]

/-- A retire reaches the queue and the events alone. -/
@[simp] theorem retire_frame (s : State) :
    (retire s).resetLow = s.resetLow ∧ (retire s).busResetLow = s.busResetLow ∧ (retire s).anchorSel = s.anchorSel ∧
    (retire s).timebase = s.timebase ∧ (retire s).bus = s.bus ∧ (retire s).blocked = s.blocked ∧
    (retire s).anchor = s.anchor ∧ (retire s).intake = s.intake ∧ (retire s).clock = s.clock ∧
    (retire s).lyrics = s.lyrics ∧ (retire s).compositor = s.compositor ∧ (retire s).framers = s.framers ∧
    (retire s).flights = s.flights ∧ (retire s).melody = s.melody ∧ (retire s).score = s.score ∧
    (retire s).parser = s.parser ∧ (retire s).handsets = s.handsets ∧ (retire s).room = s.room ∧
    (retire s).choices = s.choices ∧ (retire s).pending = s.pending := by
  simp [retire]

/-- An encore reaches the queue and the events alone. -/
@[simp] theorem encore_frame (o : EndOutcome) (l : Option Nat) (r : Requester) (x k : Nat) (s : State) :
    (encore o l r x k s).resetLow = s.resetLow ∧ (encore o l r x k s).busResetLow = s.busResetLow ∧ (encore o l r x k s).anchorSel = s.anchorSel ∧
    (encore o l r x k s).timebase = s.timebase ∧ (encore o l r x k s).bus = s.bus ∧ (encore o l r x k s).blocked = s.blocked ∧
    (encore o l r x k s).anchor = s.anchor ∧ (encore o l r x k s).intake = s.intake ∧ (encore o l r x k s).clock = s.clock ∧
    (encore o l r x k s).lyrics = s.lyrics ∧ (encore o l r x k s).compositor = s.compositor ∧ (encore o l r x k s).framers = s.framers ∧
    (encore o l r x k s).flights = s.flights ∧ (encore o l r x k s).melody = s.melody ∧ (encore o l r x k s).score = s.score ∧
    (encore o l r x k s).parser = s.parser ∧ (encore o l r x k s).handsets = s.handsets ∧ (encore o l r x k s).room = s.room ∧
    (encore o l r x k s).choices = s.choices ∧ (encore o l r x k s).pending = s.pending := by
  simp only [encore]; (repeat' split) <;> simp

/-- A posted estimate reaches the Score Engine alone. -/
@[simp] theorem scoreEstimate_frame (c : Fin 4) (e : Estimate) (s : State) :
    (scoreEstimate c e s).resetLow = s.resetLow ∧ (scoreEstimate c e s).busResetLow = s.busResetLow ∧ (scoreEstimate c e s).anchorSel = s.anchorSel ∧
    (scoreEstimate c e s).timebase = s.timebase ∧ (scoreEstimate c e s).bus = s.bus ∧ (scoreEstimate c e s).blocked = s.blocked ∧
    (scoreEstimate c e s).anchor = s.anchor ∧ (scoreEstimate c e s).intake = s.intake ∧ (scoreEstimate c e s).events = s.events ∧
    (scoreEstimate c e s).statusGen = s.statusGen ∧ (scoreEstimate c e s).clock = s.clock ∧ (scoreEstimate c e s).lyrics = s.lyrics ∧
    (scoreEstimate c e s).compositor = s.compositor ∧ (scoreEstimate c e s).framers = s.framers ∧ (scoreEstimate c e s).flights = s.flights ∧
    (scoreEstimate c e s).melody = s.melody ∧ (scoreEstimate c e s).parser = s.parser ∧ (scoreEstimate c e s).handsets = s.handsets ∧
    (scoreEstimate c e s).queue = s.queue ∧ (scoreEstimate c e s).room = s.room ∧ (scoreEstimate c e s).choices = s.choices ∧
    (scoreEstimate c e s).pending = s.pending := by
  simp [scoreEstimate]

/-- The posting of an estimate reaches the Score Engine and the flights alone. -/
@[simp] theorem postFlight_frame (c : Fin 4) (s : State) :
    (postFlight c s).resetLow = s.resetLow ∧ (postFlight c s).busResetLow = s.busResetLow ∧ (postFlight c s).anchorSel = s.anchorSel ∧
    (postFlight c s).timebase = s.timebase ∧ (postFlight c s).bus = s.bus ∧ (postFlight c s).blocked = s.blocked ∧
    (postFlight c s).anchor = s.anchor ∧ (postFlight c s).intake = s.intake ∧ (postFlight c s).events = s.events ∧
    (postFlight c s).statusGen = s.statusGen ∧ (postFlight c s).clock = s.clock ∧ (postFlight c s).lyrics = s.lyrics ∧
    (postFlight c s).compositor = s.compositor ∧ (postFlight c s).framers = s.framers ∧ (postFlight c s).melody = s.melody ∧
    (postFlight c s).parser = s.parser ∧ (postFlight c s).handsets = s.handsets ∧ (postFlight c s).queue = s.queue ∧
    (postFlight c s).room = s.room ∧ (postFlight c s).choices = s.choices ∧ (postFlight c s).pending = s.pending := by
  simp only [postFlight]; split <;> simp

/-- A completed posting reaches score, clock, queue and events alone. -/
@[simp] theorem completePosting_frame (o : EndOutcome) (s : State) :
    (completePosting o s).resetLow = s.resetLow ∧ (completePosting o s).busResetLow = s.busResetLow ∧ (completePosting o s).anchorSel = s.anchorSel ∧
    (completePosting o s).timebase = s.timebase ∧ (completePosting o s).bus = s.bus ∧ (completePosting o s).blocked = s.blocked ∧
    (completePosting o s).anchor = s.anchor ∧ (completePosting o s).intake = s.intake ∧ (completePosting o s).lyrics = s.lyrics ∧
    (completePosting o s).compositor = s.compositor ∧ (completePosting o s).framers = s.framers ∧ (completePosting o s).flights = s.flights ∧
    (completePosting o s).melody = s.melody ∧ (completePosting o s).parser = s.parser ∧ (completePosting o s).handsets = s.handsets ∧
    (completePosting o s).room = s.room ∧ (completePosting o s).choices = s.choices ∧ (completePosting o s).pending = s.pending := by
  simp [completePosting]

/-- A song end reaches score, clock, queue and events alone. -/
@[simp] theorem endSong_frame (o : EndOutcome) (s : State) :
    (endSong o s).resetLow = s.resetLow ∧ (endSong o s).busResetLow = s.busResetLow ∧ (endSong o s).anchorSel = s.anchorSel ∧
    (endSong o s).timebase = s.timebase ∧ (endSong o s).bus = s.bus ∧ (endSong o s).blocked = s.blocked ∧
    (endSong o s).anchor = s.anchor ∧ (endSong o s).intake = s.intake ∧ (endSong o s).lyrics = s.lyrics ∧
    (endSong o s).compositor = s.compositor ∧ (endSong o s).framers = s.framers ∧ (endSong o s).flights = s.flights ∧
    (endSong o s).melody = s.melody ∧ (endSong o s).parser = s.parser ∧ (endSong o s).handsets = s.handsets ∧
    (endSong o s).room = s.room ∧ (endSong o s).choices = s.choices ∧ (endSong o s).pending = s.pending := by
  simp [endSong]

/-- A counted beat reaches score, clock, queue and events alone. -/
@[simp] theorem countBeat_frame (w : Win) (a : Addr) (s : State) :
    (countBeat w a s).resetLow = s.resetLow ∧ (countBeat w a s).busResetLow = s.busResetLow ∧ (countBeat w a s).anchorSel = s.anchorSel ∧
    (countBeat w a s).timebase = s.timebase ∧ (countBeat w a s).bus = s.bus ∧ (countBeat w a s).blocked = s.blocked ∧
    (countBeat w a s).anchor = s.anchor ∧ (countBeat w a s).intake = s.intake ∧ (countBeat w a s).lyrics = s.lyrics ∧
    (countBeat w a s).compositor = s.compositor ∧ (countBeat w a s).framers = s.framers ∧ (countBeat w a s).flights = s.flights ∧
    (countBeat w a s).melody = s.melody ∧ (countBeat w a s).parser = s.parser ∧ (countBeat w a s).handsets = s.handsets ∧
    (countBeat w a s).room = s.room ∧ (countBeat w a s).choices = s.choices ∧ (countBeat w a s).pending = s.pending := by
  simp only [countBeat]; split <;> simp

/-- A playback beat reaches score, clock, queue and events alone. -/
@[simp] theorem playbackBeat_frame (w : Win) (a : Addr) (s : State) :
    (playbackBeat w a s).resetLow = s.resetLow ∧ (playbackBeat w a s).busResetLow = s.busResetLow ∧ (playbackBeat w a s).anchorSel = s.anchorSel ∧
    (playbackBeat w a s).timebase = s.timebase ∧ (playbackBeat w a s).bus = s.bus ∧ (playbackBeat w a s).blocked = s.blocked ∧
    (playbackBeat w a s).anchor = s.anchor ∧ (playbackBeat w a s).intake = s.intake ∧ (playbackBeat w a s).lyrics = s.lyrics ∧
    (playbackBeat w a s).compositor = s.compositor ∧ (playbackBeat w a s).framers = s.framers ∧ (playbackBeat w a s).flights = s.flights ∧
    (playbackBeat w a s).melody = s.melody ∧ (playbackBeat w a s).parser = s.parser ∧ (playbackBeat w a s).handsets = s.handsets ∧
    (playbackBeat w a s).room = s.room ∧ (playbackBeat w a s).choices = s.choices ∧ (playbackBeat w a s).pending = s.pending := by
  simp only [playbackBeat]; (repeat' split) <;> simp

/-- A stall expiry reaches the clock and the events alone. -/
@[simp] theorem expireStall_frame (s : State) :
    (expireStall s).resetLow = s.resetLow ∧ (expireStall s).busResetLow = s.busResetLow ∧ (expireStall s).anchorSel = s.anchorSel ∧
    (expireStall s).timebase = s.timebase ∧ (expireStall s).bus = s.bus ∧ (expireStall s).blocked = s.blocked ∧
    (expireStall s).anchor = s.anchor ∧ (expireStall s).intake = s.intake ∧ (expireStall s).lyrics = s.lyrics ∧
    (expireStall s).compositor = s.compositor ∧ (expireStall s).framers = s.framers ∧ (expireStall s).flights = s.flights ∧
    (expireStall s).melody = s.melody ∧ (expireStall s).score = s.score ∧ (expireStall s).parser = s.parser ∧
    (expireStall s).handsets = s.handsets ∧ (expireStall s).queue = s.queue ∧ (expireStall s).room = s.room ∧
    (expireStall s).choices = s.choices ∧ (expireStall s).pending = s.pending := by
  simp only [expireStall]; split <;> simp

/-- A load leaves the bus, the anchor, the tables, the room and the flights alone. -/
@[simp] theorem applyLoad_frame (r : LoadRequest) (n : NowPlaying) (es : List Entry) (s : State) :
    (applyLoad r n es s).resetLow = s.resetLow ∧ (applyLoad r n es s).busResetLow = s.busResetLow ∧ (applyLoad r n es s).anchorSel = s.anchorSel ∧
    (applyLoad r n es s).timebase = s.timebase ∧ (applyLoad r n es s).bus = s.bus ∧ (applyLoad r n es s).blocked = s.blocked ∧
    (applyLoad r n es s).anchor = s.anchor ∧ (applyLoad r n es s).intake = s.intake ∧ (applyLoad r n es s).flights = s.flights ∧
    (applyLoad r n es s).melody = s.melody ∧ (applyLoad r n es s).parser = s.parser ∧ (applyLoad r n es s).room = s.room ∧
    (applyLoad r n es s).choices = s.choices ∧ (applyLoad r n es s).pending = s.pending := by
  simp [applyLoad]

/-- A seek reaches clock, queue, lyrics, score and events alone. -/
@[simp] theorem applySeek_frame (p n : Nat) (s : State) :
    (applySeek p n s).resetLow = s.resetLow ∧ (applySeek p n s).busResetLow = s.busResetLow ∧ (applySeek p n s).anchorSel = s.anchorSel ∧
    (applySeek p n s).timebase = s.timebase ∧ (applySeek p n s).bus = s.bus ∧ (applySeek p n s).blocked = s.blocked ∧
    (applySeek p n s).anchor = s.anchor ∧ (applySeek p n s).intake = s.intake ∧ (applySeek p n s).compositor = s.compositor ∧
    (applySeek p n s).framers = s.framers ∧ (applySeek p n s).flights = s.flights ∧ (applySeek p n s).melody = s.melody ∧
    (applySeek p n s).parser = s.parser ∧ (applySeek p n s).handsets = s.handsets ∧ (applySeek p n s).room = s.room ∧
    (applySeek p n s).choices = s.choices ∧ (applySeek p n s).pending = s.pending := by
  simp only [applySeek]; split <;> simp

/-- A skip test reaches the Handset Table and the events alone. -/
@[simp] theorem skipTest_frame (s : State) :
    (skipTest s).resetLow = s.resetLow ∧ (skipTest s).busResetLow = s.busResetLow ∧ (skipTest s).anchorSel = s.anchorSel ∧
    (skipTest s).timebase = s.timebase ∧ (skipTest s).bus = s.bus ∧ (skipTest s).blocked = s.blocked ∧
    (skipTest s).anchor = s.anchor ∧ (skipTest s).intake = s.intake ∧ (skipTest s).clock = s.clock ∧
    (skipTest s).lyrics = s.lyrics ∧ (skipTest s).compositor = s.compositor ∧ (skipTest s).framers = s.framers ∧
    (skipTest s).flights = s.flights ∧ (skipTest s).melody = s.melody ∧ (skipTest s).score = s.score ∧
    (skipTest s).parser = s.parser ∧ (skipTest s).queue = s.queue ∧ (skipTest s).room = s.room ∧
    (skipTest s).choices = s.choices ∧ (skipTest s).pending = s.pending := by
  simp only [skipTest]; split <;> simp

/-- A handset's change reaches the Handset Table and the events alone. -/
@[simp] theorem changeHandset_frame (h : Fin 16) (r : Handset) (s : State) :
    (changeHandset h r s).resetLow = s.resetLow ∧ (changeHandset h r s).busResetLow = s.busResetLow ∧ (changeHandset h r s).anchorSel = s.anchorSel ∧
    (changeHandset h r s).timebase = s.timebase ∧ (changeHandset h r s).bus = s.bus ∧ (changeHandset h r s).blocked = s.blocked ∧
    (changeHandset h r s).anchor = s.anchor ∧ (changeHandset h r s).intake = s.intake ∧ (changeHandset h r s).clock = s.clock ∧
    (changeHandset h r s).lyrics = s.lyrics ∧ (changeHandset h r s).compositor = s.compositor ∧ (changeHandset h r s).framers = s.framers ∧
    (changeHandset h r s).flights = s.flights ∧ (changeHandset h r s).melody = s.melody ∧ (changeHandset h r s).score = s.score ∧
    (changeHandset h r s).parser = s.parser ∧ (changeHandset h r s).queue = s.queue ∧ (changeHandset h r s).room = s.room ∧
    (changeHandset h r s).choices = s.choices ∧ (changeHandset h r s).pending = s.pending := by
  simp only [changeHandset]; split <;> simp

/-- A presence expiry reaches the Handset Table and the events alone. -/
@[simp] theorem expirePresence_frame (h : Fin 16) (s : State) :
    (expirePresence h s).resetLow = s.resetLow ∧ (expirePresence h s).busResetLow = s.busResetLow ∧ (expirePresence h s).anchorSel = s.anchorSel ∧
    (expirePresence h s).timebase = s.timebase ∧ (expirePresence h s).bus = s.bus ∧ (expirePresence h s).blocked = s.blocked ∧
    (expirePresence h s).anchor = s.anchor ∧ (expirePresence h s).intake = s.intake ∧ (expirePresence h s).clock = s.clock ∧
    (expirePresence h s).lyrics = s.lyrics ∧ (expirePresence h s).compositor = s.compositor ∧ (expirePresence h s).framers = s.framers ∧
    (expirePresence h s).flights = s.flights ∧ (expirePresence h s).melody = s.melody ∧ (expirePresence h s).score = s.score ∧
    (expirePresence h s).parser = s.parser ∧ (expirePresence h s).queue = s.queue ∧ (expirePresence h s).room = s.room ∧
    (expirePresence h s).choices = s.choices ∧ (expirePresence h s).pending = s.pending := by
  simp only [expirePresence]; split <;> simp

/-- A quiet expiry reaches the Handset Table and the events alone. -/
@[simp] theorem expireQuiet_frame (h : Fin 16) (s : State) :
    (expireQuiet h s).resetLow = s.resetLow ∧ (expireQuiet h s).busResetLow = s.busResetLow ∧ (expireQuiet h s).anchorSel = s.anchorSel ∧
    (expireQuiet h s).timebase = s.timebase ∧ (expireQuiet h s).bus = s.bus ∧ (expireQuiet h s).blocked = s.blocked ∧
    (expireQuiet h s).anchor = s.anchor ∧ (expireQuiet h s).intake = s.intake ∧ (expireQuiet h s).clock = s.clock ∧
    (expireQuiet h s).lyrics = s.lyrics ∧ (expireQuiet h s).compositor = s.compositor ∧ (expireQuiet h s).framers = s.framers ∧
    (expireQuiet h s).flights = s.flights ∧ (expireQuiet h s).melody = s.melody ∧ (expireQuiet h s).score = s.score ∧
    (expireQuiet h s).parser = s.parser ∧ (expireQuiet h s).queue = s.queue ∧ (expireQuiet h s).room = s.room ∧
    (expireQuiet h s).choices = s.choices ∧ (expireQuiet h s).pending = s.pending := by
  simp only [expireQuiet]; (repeat' split) <;> simp

/-- Vacating the table reaches it and the events alone. -/
@[simp] theorem vacateHandsets_frame (s : State) :
    (vacateHandsets s).resetLow = s.resetLow ∧ (vacateHandsets s).busResetLow = s.busResetLow ∧ (vacateHandsets s).anchorSel = s.anchorSel ∧
    (vacateHandsets s).timebase = s.timebase ∧ (vacateHandsets s).bus = s.bus ∧ (vacateHandsets s).blocked = s.blocked ∧
    (vacateHandsets s).anchor = s.anchor ∧ (vacateHandsets s).intake = s.intake ∧ (vacateHandsets s).clock = s.clock ∧
    (vacateHandsets s).lyrics = s.lyrics ∧ (vacateHandsets s).compositor = s.compositor ∧ (vacateHandsets s).framers = s.framers ∧
    (vacateHandsets s).flights = s.flights ∧ (vacateHandsets s).melody = s.melody ∧ (vacateHandsets s).score = s.score ∧
    (vacateHandsets s).parser = s.parser ∧ (vacateHandsets s).queue = s.queue ∧ (vacateHandsets s).room = s.room ∧
    (vacateHandsets s).choices = s.choices ∧ (vacateHandsets s).pending = s.pending := by
  simp only [vacateHandsets]; split <;> simp

/-- A reply reaches the Handset Table and the events alone. -/
@[simp] theorem writeReply_frame (h : Fin 16) (q : Byte) (a : Answer) (s : State) :
    (writeReply h q a s).resetLow = s.resetLow ∧ (writeReply h q a s).busResetLow = s.busResetLow ∧ (writeReply h q a s).anchorSel = s.anchorSel ∧
    (writeReply h q a s).timebase = s.timebase ∧ (writeReply h q a s).bus = s.bus ∧ (writeReply h q a s).blocked = s.blocked ∧
    (writeReply h q a s).anchor = s.anchor ∧ (writeReply h q a s).intake = s.intake ∧ (writeReply h q a s).clock = s.clock ∧
    (writeReply h q a s).lyrics = s.lyrics ∧ (writeReply h q a s).compositor = s.compositor ∧ (writeReply h q a s).framers = s.framers ∧
    (writeReply h q a s).flights = s.flights ∧ (writeReply h q a s).melody = s.melody ∧ (writeReply h q a s).score = s.score ∧
    (writeReply h q a s).parser = s.parser ∧ (writeReply h q a s).queue = s.queue ∧ (writeReply h q a s).room = s.room ∧
    (writeReply h q a s).choices = s.choices ∧ (writeReply h q a s).pending = s.pending := by
  simp [writeReply]

/-- The answer to a BARRED handset reaches the Handset Table and the events alone. -/
@[simp] theorem answerBarred_frame (h : Fin 16) (q : Byte) (s : State) :
    (answerBarred h q s).resetLow = s.resetLow ∧ (answerBarred h q s).busResetLow = s.busResetLow ∧ (answerBarred h q s).anchorSel = s.anchorSel ∧
    (answerBarred h q s).timebase = s.timebase ∧ (answerBarred h q s).bus = s.bus ∧ (answerBarred h q s).blocked = s.blocked ∧
    (answerBarred h q s).anchor = s.anchor ∧ (answerBarred h q s).intake = s.intake ∧ (answerBarred h q s).clock = s.clock ∧
    (answerBarred h q s).lyrics = s.lyrics ∧ (answerBarred h q s).compositor = s.compositor ∧ (answerBarred h q s).framers = s.framers ∧
    (answerBarred h q s).flights = s.flights ∧ (answerBarred h q s).melody = s.melody ∧ (answerBarred h q s).score = s.score ∧
    (answerBarred h q s).parser = s.parser ∧ (answerBarred h q s).queue = s.queue ∧ (answerBarred h q s).room = s.room ∧
    (answerBarred h q s).choices = s.choices ∧ (answerBarred h q s).pending = s.pending := by
  simp [answerBarred]

/-- The end of a packet reaches the Handset Table and the events alone. -/
@[simp] theorem concludePacket_frame (h : Fin 16) (q : Byte) (a : Answer) (s : State) :
    (concludePacket h q a s).resetLow = s.resetLow ∧ (concludePacket h q a s).busResetLow = s.busResetLow ∧ (concludePacket h q a s).anchorSel = s.anchorSel ∧
    (concludePacket h q a s).timebase = s.timebase ∧ (concludePacket h q a s).bus = s.bus ∧ (concludePacket h q a s).blocked = s.blocked ∧
    (concludePacket h q a s).anchor = s.anchor ∧ (concludePacket h q a s).intake = s.intake ∧ (concludePacket h q a s).clock = s.clock ∧
    (concludePacket h q a s).lyrics = s.lyrics ∧ (concludePacket h q a s).compositor = s.compositor ∧ (concludePacket h q a s).framers = s.framers ∧
    (concludePacket h q a s).flights = s.flights ∧ (concludePacket h q a s).melody = s.melody ∧ (concludePacket h q a s).score = s.score ∧
    (concludePacket h q a s).parser = s.parser ∧ (concludePacket h q a s).queue = s.queue ∧ (concludePacket h q a s).room = s.room ∧
    (concludePacket h q a s).choices = s.choices ∧ (concludePacket h q a s).pending = s.pending := by
  simp [concludePacket]

/-- The low-battery copy reaches the Handset Table alone. -/
@[simp] theorem copyBattery_frame (x : PacketHead) (s : State) :
    (copyBattery x s).resetLow = s.resetLow ∧ (copyBattery x s).busResetLow = s.busResetLow ∧ (copyBattery x s).anchorSel = s.anchorSel ∧
    (copyBattery x s).timebase = s.timebase ∧ (copyBattery x s).bus = s.bus ∧ (copyBattery x s).blocked = s.blocked ∧
    (copyBattery x s).anchor = s.anchor ∧ (copyBattery x s).intake = s.intake ∧ (copyBattery x s).events = s.events ∧
    (copyBattery x s).statusGen = s.statusGen ∧ (copyBattery x s).clock = s.clock ∧ (copyBattery x s).lyrics = s.lyrics ∧
    (copyBattery x s).compositor = s.compositor ∧ (copyBattery x s).framers = s.framers ∧ (copyBattery x s).flights = s.flights ∧
    (copyBattery x s).melody = s.melody ∧ (copyBattery x s).score = s.score ∧ (copyBattery x s).parser = s.parser ∧
    (copyBattery x s).queue = s.queue ∧ (copyBattery x s).room = s.room ∧ (copyBattery x s).choices = s.choices ∧
    (copyBattery x s).pending = s.pending := by
  simp [copyBattery]

/-- A gap reaches the framers and the events alone. -/
@[simp] theorem captureGap_frame (c : Fin 4) (w : Win) (a : Addr) (d : Data) (b : Bool) (s : State) :
    (captureGap c w a d b s).resetLow = s.resetLow ∧ (captureGap c w a d b s).busResetLow = s.busResetLow ∧ (captureGap c w a d b s).anchorSel = s.anchorSel ∧
    (captureGap c w a d b s).timebase = s.timebase ∧ (captureGap c w a d b s).bus = s.bus ∧ (captureGap c w a d b s).blocked = s.blocked ∧
    (captureGap c w a d b s).anchor = s.anchor ∧ (captureGap c w a d b s).intake = s.intake ∧ (captureGap c w a d b s).clock = s.clock ∧
    (captureGap c w a d b s).lyrics = s.lyrics ∧ (captureGap c w a d b s).compositor = s.compositor ∧ (captureGap c w a d b s).flights = s.flights ∧
    (captureGap c w a d b s).melody = s.melody ∧ (captureGap c w a d b s).score = s.score ∧ (captureGap c w a d b s).parser = s.parser ∧
    (captureGap c w a d b s).handsets = s.handsets ∧ (captureGap c w a d b s).queue = s.queue ∧ (captureGap c w a d b s).room = s.room ∧
    (captureGap c w a d b s).choices = s.choices ∧ (captureGap c w a d b s).pending = s.pending := by
  simp [captureGap]

/-- A completed frame reaches the flights and the Score Engine alone. -/
@[simp] theorem completeFrame_frame (c : Fin 4) (x : List (BitVec 16)) (s : State) :
    (completeFrame c x s).resetLow = s.resetLow ∧ (completeFrame c x s).busResetLow = s.busResetLow ∧ (completeFrame c x s).anchorSel = s.anchorSel ∧
    (completeFrame c x s).timebase = s.timebase ∧ (completeFrame c x s).bus = s.bus ∧ (completeFrame c x s).blocked = s.blocked ∧
    (completeFrame c x s).anchor = s.anchor ∧ (completeFrame c x s).intake = s.intake ∧ (completeFrame c x s).events = s.events ∧
    (completeFrame c x s).statusGen = s.statusGen ∧ (completeFrame c x s).clock = s.clock ∧ (completeFrame c x s).lyrics = s.lyrics ∧
    (completeFrame c x s).compositor = s.compositor ∧ (completeFrame c x s).framers = s.framers ∧ (completeFrame c x s).melody = s.melody ∧
    (completeFrame c x s).parser = s.parser ∧ (completeFrame c x s).handsets = s.handsets ∧ (completeFrame c x s).queue = s.queue ∧
    (completeFrame c x s).room = s.room ∧ (completeFrame c x s).choices = s.choices ∧ (completeFrame c x s).pending = s.pending := by
  simp [completeFrame]

/-- A continuous beat reaches the framers, the flights and the Score Engine alone. -/
@[simp] theorem appendBeat_frame (c : Fin 4) (w : Win) (a : Addr) (d : Data) (s : State) :
    (appendBeat c w a d s).resetLow = s.resetLow ∧ (appendBeat c w a d s).busResetLow = s.busResetLow ∧ (appendBeat c w a d s).anchorSel = s.anchorSel ∧
    (appendBeat c w a d s).timebase = s.timebase ∧ (appendBeat c w a d s).bus = s.bus ∧ (appendBeat c w a d s).blocked = s.blocked ∧
    (appendBeat c w a d s).anchor = s.anchor ∧ (appendBeat c w a d s).intake = s.intake ∧ (appendBeat c w a d s).events = s.events ∧
    (appendBeat c w a d s).statusGen = s.statusGen ∧ (appendBeat c w a d s).clock = s.clock ∧ (appendBeat c w a d s).lyrics = s.lyrics ∧
    (appendBeat c w a d s).compositor = s.compositor ∧ (appendBeat c w a d s).melody = s.melody ∧ (appendBeat c w a d s).parser = s.parser ∧
    (appendBeat c w a d s).handsets = s.handsets ∧ (appendBeat c w a d s).queue = s.queue ∧ (appendBeat c w a d s).room = s.room ∧
    (appendBeat c w a d s).choices = s.choices ∧ (appendBeat c w a d s).pending = s.pending := by
  simp only [appendBeat]; split <;> simp

/-- A capture beat reaches the framers, the flights, the Score Engine and the events alone. -/
@[simp] theorem captureBeat_frame (c : Fin 4) (w : Win) (a : Addr) (d : Data) (en : Enables) (s : State) :
    (captureBeat c w a d en s).resetLow = s.resetLow ∧ (captureBeat c w a d en s).busResetLow = s.busResetLow ∧ (captureBeat c w a d en s).anchorSel = s.anchorSel ∧
    (captureBeat c w a d en s).timebase = s.timebase ∧ (captureBeat c w a d en s).bus = s.bus ∧ (captureBeat c w a d en s).blocked = s.blocked ∧
    (captureBeat c w a d en s).anchor = s.anchor ∧ (captureBeat c w a d en s).intake = s.intake ∧ (captureBeat c w a d en s).clock = s.clock ∧
    (captureBeat c w a d en s).lyrics = s.lyrics ∧ (captureBeat c w a d en s).compositor = s.compositor ∧ (captureBeat c w a d en s).melody = s.melody ∧
    (captureBeat c w a d en s).parser = s.parser ∧ (captureBeat c w a d en s).handsets = s.handsets ∧ (captureBeat c w a d en s).queue = s.queue ∧
    (captureBeat c w a d en s).room = s.room ∧ (captureBeat c w a d en s).choices = s.choices ∧ (captureBeat c w a d en s).pending = s.pending := by
  simp only [captureBeat]; (repeat' split) <;> simp

/-- A completion check reaches the lyrics and the events alone. -/
@[simp] theorem runCompletionCheck_frame (b : Fin 4) (s : State) :
    (runCompletionCheck b s).resetLow = s.resetLow ∧ (runCompletionCheck b s).busResetLow = s.busResetLow ∧ (runCompletionCheck b s).anchorSel = s.anchorSel ∧
    (runCompletionCheck b s).timebase = s.timebase ∧ (runCompletionCheck b s).bus = s.bus ∧ (runCompletionCheck b s).blocked = s.blocked ∧
    (runCompletionCheck b s).anchor = s.anchor ∧ (runCompletionCheck b s).intake = s.intake ∧ (runCompletionCheck b s).clock = s.clock ∧
    (runCompletionCheck b s).compositor = s.compositor ∧ (runCompletionCheck b s).framers = s.framers ∧ (runCompletionCheck b s).flights = s.flights ∧
    (runCompletionCheck b s).melody = s.melody ∧ (runCompletionCheck b s).score = s.score ∧ (runCompletionCheck b s).parser = s.parser ∧
    (runCompletionCheck b s).handsets = s.handsets ∧ (runCompletionCheck b s).queue = s.queue ∧ (runCompletionCheck b s).room = s.room ∧
    (runCompletionCheck b s).choices = s.choices ∧ (runCompletionCheck b s).pending = s.pending := by
  simp only [runCompletionCheck]; split <;> simp

/-- A strip beat reaches the lyrics and the events alone. -/
@[simp] theorem stripBeat_frame (f : Nat) (d : Data) (en : Enables) (s : State) :
    (stripBeat f d en s).resetLow = s.resetLow ∧ (stripBeat f d en s).busResetLow = s.busResetLow ∧ (stripBeat f d en s).anchorSel = s.anchorSel ∧
    (stripBeat f d en s).timebase = s.timebase ∧ (stripBeat f d en s).bus = s.bus ∧ (stripBeat f d en s).blocked = s.blocked ∧
    (stripBeat f d en s).anchor = s.anchor ∧ (stripBeat f d en s).intake = s.intake ∧ (stripBeat f d en s).clock = s.clock ∧
    (stripBeat f d en s).compositor = s.compositor ∧ (stripBeat f d en s).framers = s.framers ∧ (stripBeat f d en s).flights = s.flights ∧
    (stripBeat f d en s).melody = s.melody ∧ (stripBeat f d en s).score = s.score ∧ (stripBeat f d en s).parser = s.parser ∧
    (stripBeat f d en s).handsets = s.handsets ∧ (stripBeat f d en s).queue = s.queue ∧ (stripBeat f d en s).room = s.room ∧
    (stripBeat f d en s).choices = s.choices ∧ (stripBeat f d en s).pending = s.pending := by
  simp only [stripBeat]; (repeat' split) <;> simp

/-- Chain sequencing reaches the lyrics and the events alone. -/
@[simp] theorem sequenceChain_frame (t l d : Nat) (s : State) :
    (sequenceChain t l d s).resetLow = s.resetLow ∧ (sequenceChain t l d s).busResetLow = s.busResetLow ∧ (sequenceChain t l d s).anchorSel = s.anchorSel ∧
    (sequenceChain t l d s).timebase = s.timebase ∧ (sequenceChain t l d s).bus = s.bus ∧ (sequenceChain t l d s).blocked = s.blocked ∧
    (sequenceChain t l d s).anchor = s.anchor ∧ (sequenceChain t l d s).intake = s.intake ∧ (sequenceChain t l d s).clock = s.clock ∧
    (sequenceChain t l d s).compositor = s.compositor ∧ (sequenceChain t l d s).framers = s.framers ∧ (sequenceChain t l d s).flights = s.flights ∧
    (sequenceChain t l d s).melody = s.melody ∧ (sequenceChain t l d s).score = s.score ∧ (sequenceChain t l d s).parser = s.parser ∧
    (sequenceChain t l d s).handsets = s.handsets ∧ (sequenceChain t l d s).queue = s.queue ∧ (sequenceChain t l d s).room = s.room ∧
    (sequenceChain t l d s).choices = s.choices ∧ (sequenceChain t l d s).pending = s.pending := by
  simp [sequenceChain]

/-- A lyric latch reaches the lyrics, the compositor and the events alone. -/
@[simp] theorem takeLyricLatch_frame (s : State) :
    (takeLyricLatch s).resetLow = s.resetLow ∧ (takeLyricLatch s).busResetLow = s.busResetLow ∧ (takeLyricLatch s).anchorSel = s.anchorSel ∧
    (takeLyricLatch s).timebase = s.timebase ∧ (takeLyricLatch s).bus = s.bus ∧ (takeLyricLatch s).blocked = s.blocked ∧
    (takeLyricLatch s).anchor = s.anchor ∧ (takeLyricLatch s).intake = s.intake ∧ (takeLyricLatch s).clock = s.clock ∧
    (takeLyricLatch s).framers = s.framers ∧ (takeLyricLatch s).flights = s.flights ∧ (takeLyricLatch s).melody = s.melody ∧
    (takeLyricLatch s).score = s.score ∧ (takeLyricLatch s).parser = s.parser ∧ (takeLyricLatch s).handsets = s.handsets ∧
    (takeLyricLatch s).queue = s.queue ∧ (takeLyricLatch s).room = s.room ∧ (takeLyricLatch s).choices = s.choices ∧
    (takeLyricLatch s).pending = s.pending := by
  simp [takeLyricLatch]

/-- A SCANOUT beat reaches the lyrics, the compositor and the events alone. -/
@[simp] theorem scanoutState_frame (f : Nat) (s : State) :
    (scanoutState f s).resetLow = s.resetLow ∧ (scanoutState f s).busResetLow = s.busResetLow ∧ (scanoutState f s).anchorSel = s.anchorSel ∧
    (scanoutState f s).timebase = s.timebase ∧ (scanoutState f s).bus = s.bus ∧ (scanoutState f s).blocked = s.blocked ∧
    (scanoutState f s).anchor = s.anchor ∧ (scanoutState f s).intake = s.intake ∧ (scanoutState f s).clock = s.clock ∧
    (scanoutState f s).framers = s.framers ∧ (scanoutState f s).flights = s.flights ∧ (scanoutState f s).melody = s.melody ∧
    (scanoutState f s).score = s.score ∧ (scanoutState f s).parser = s.parser ∧ (scanoutState f s).handsets = s.handsets ∧
    (scanoutState f s).queue = s.queue ∧ (scanoutState f s).room = s.room ∧ (scanoutState f s).choices = s.choices ∧
    (scanoutState f s).pending = s.pending := by
  simp only [scanoutState, enterGuide, enterLyric]; (repeat' split) <;> simp

/-- An entry check reaches the anchor and the events alone. -/
@[simp] theorem touchEntry_frame (i : Fin 16) (s : State) :
    (touchEntry i s).resetLow = s.resetLow ∧ (touchEntry i s).busResetLow = s.busResetLow ∧ (touchEntry i s).anchorSel = s.anchorSel ∧
    (touchEntry i s).timebase = s.timebase ∧ (touchEntry i s).bus = s.bus ∧ (touchEntry i s).blocked = s.blocked ∧
    (touchEntry i s).intake = s.intake ∧ (touchEntry i s).clock = s.clock ∧ (touchEntry i s).lyrics = s.lyrics ∧
    (touchEntry i s).compositor = s.compositor ∧ (touchEntry i s).framers = s.framers ∧ (touchEntry i s).flights = s.flights ∧
    (touchEntry i s).melody = s.melody ∧ (touchEntry i s).score = s.score ∧ (touchEntry i s).parser = s.parser ∧
    (touchEntry i s).handsets = s.handsets ∧ (touchEntry i s).queue = s.queue ∧ (touchEntry i s).room = s.room ∧
    (touchEntry i s).choices = s.choices ∧ (touchEntry i s).pending = s.pending := by
  simp only [touchEntry]; (repeat' split) <;> simp

/-- A shadow beat reaches the anchor and the events alone. -/
@[simp] theorem shadowBeat_frame (o : Nat) (d : Data) (en : Enables) (s : State) :
    (shadowBeat o d en s).resetLow = s.resetLow ∧ (shadowBeat o d en s).busResetLow = s.busResetLow ∧ (shadowBeat o d en s).anchorSel = s.anchorSel ∧
    (shadowBeat o d en s).timebase = s.timebase ∧ (shadowBeat o d en s).bus = s.bus ∧ (shadowBeat o d en s).blocked = s.blocked ∧
    (shadowBeat o d en s).intake = s.intake ∧ (shadowBeat o d en s).clock = s.clock ∧ (shadowBeat o d en s).lyrics = s.lyrics ∧
    (shadowBeat o d en s).compositor = s.compositor ∧ (shadowBeat o d en s).framers = s.framers ∧ (shadowBeat o d en s).flights = s.flights ∧
    (shadowBeat o d en s).melody = s.melody ∧ (shadowBeat o d en s).score = s.score ∧ (shadowBeat o d en s).parser = s.parser ∧
    (shadowBeat o d en s).handsets = s.handsets ∧ (shadowBeat o d en s).queue = s.queue ∧ (shadowBeat o d en s).room = s.room ∧
    (shadowBeat o d en s).choices = s.choices ∧ (shadowBeat o d en s).pending = s.pending := by
  simp only [shadowBeat]; (repeat' split) <;> simp

/-- A last-command record reaches the intake and the events alone. -/
@[simp] theorem recordCommand_frame (c : CmdSlot) (x : Byte) (o : CmdOutcome) (s : State) :
    (recordCommand c x o s).resetLow = s.resetLow ∧ (recordCommand c x o s).busResetLow = s.busResetLow ∧ (recordCommand c x o s).anchorSel = s.anchorSel ∧
    (recordCommand c x o s).timebase = s.timebase ∧ (recordCommand c x o s).bus = s.bus ∧ (recordCommand c x o s).blocked = s.blocked ∧
    (recordCommand c x o s).anchor = s.anchor ∧ (recordCommand c x o s).clock = s.clock ∧ (recordCommand c x o s).lyrics = s.lyrics ∧
    (recordCommand c x o s).compositor = s.compositor ∧ (recordCommand c x o s).framers = s.framers ∧ (recordCommand c x o s).flights = s.flights ∧
    (recordCommand c x o s).melody = s.melody ∧ (recordCommand c x o s).score = s.score ∧ (recordCommand c x o s).parser = s.parser ∧
    (recordCommand c x o s).handsets = s.handsets ∧ (recordCommand c x o s).queue = s.queue ∧ (recordCommand c x o s).room = s.room ∧
    (recordCommand c x o s).choices = s.choices ∧ (recordCommand c x o s).pending = s.pending := by
  simp [recordCommand]

/-- An acknowledgement reaches the flags alone. -/
@[simp] theorem acknowledge_frame (m : Set16) (s : State) :
    (acknowledge m s).resetLow = s.resetLow ∧ (acknowledge m s).busResetLow = s.busResetLow ∧ (acknowledge m s).anchorSel = s.anchorSel ∧
    (acknowledge m s).timebase = s.timebase ∧ (acknowledge m s).bus = s.bus ∧ (acknowledge m s).blocked = s.blocked ∧
    (acknowledge m s).anchor = s.anchor ∧ (acknowledge m s).intake = s.intake ∧ (acknowledge m s).clock = s.clock ∧
    (acknowledge m s).lyrics = s.lyrics ∧ (acknowledge m s).compositor = s.compositor ∧ (acknowledge m s).framers = s.framers ∧
    (acknowledge m s).flights = s.flights ∧ (acknowledge m s).melody = s.melody ∧ (acknowledge m s).score = s.score ∧
    (acknowledge m s).parser = s.parser ∧ (acknowledge m s).handsets = s.handsets ∧ (acknowledge m s).queue = s.queue ∧
    (acknowledge m s).room = s.room ∧ (acknowledge m s).choices = s.choices ∧ (acknowledge m s).pending = s.pending := by
  simp only [acknowledge]; split <;> simp

/-- A blocked beat reaches the last-blocked record and the events alone. -/
@[simp] theorem blockBeat_frame (r : BusRequest) (a : Addr) (c : BlockCause) (s : State) :
    (blockBeat r a c s).resetLow = s.resetLow ∧ (blockBeat r a c s).busResetLow = s.busResetLow ∧ (blockBeat r a c s).anchorSel = s.anchorSel ∧
    (blockBeat r a c s).timebase = s.timebase ∧ (blockBeat r a c s).bus = s.bus ∧ (blockBeat r a c s).anchor = s.anchor ∧
    (blockBeat r a c s).intake = s.intake ∧ (blockBeat r a c s).clock = s.clock ∧ (blockBeat r a c s).lyrics = s.lyrics ∧
    (blockBeat r a c s).compositor = s.compositor ∧ (blockBeat r a c s).framers = s.framers ∧ (blockBeat r a c s).flights = s.flights ∧
    (blockBeat r a c s).melody = s.melody ∧ (blockBeat r a c s).score = s.score ∧ (blockBeat r a c s).parser = s.parser ∧
    (blockBeat r a c s).handsets = s.handsets ∧ (blockBeat r a c s).queue = s.queue ∧ (blockBeat r a c s).room = s.room ∧
    (blockBeat r a c s).choices = s.choices ∧ (blockBeat r a c s).pending = s.pending := by
  simp [blockBeat]

/-- A room second reaches the room, the queue and the events alone. -/
@[simp] theorem expireSecond_frame (s : State) :
    (expireSecond s).resetLow = s.resetLow ∧ (expireSecond s).busResetLow = s.busResetLow ∧ (expireSecond s).anchorSel = s.anchorSel ∧
    (expireSecond s).timebase = s.timebase ∧ (expireSecond s).bus = s.bus ∧ (expireSecond s).blocked = s.blocked ∧
    (expireSecond s).anchor = s.anchor ∧ (expireSecond s).intake = s.intake ∧ (expireSecond s).clock = s.clock ∧
    (expireSecond s).lyrics = s.lyrics ∧ (expireSecond s).compositor = s.compositor ∧ (expireSecond s).framers = s.framers ∧
    (expireSecond s).flights = s.flights ∧ (expireSecond s).melody = s.melody ∧ (expireSecond s).score = s.score ∧
    (expireSecond s).parser = s.parser ∧ (expireSecond s).handsets = s.handsets ∧ (expireSecond s).choices = s.choices ∧
    (expireSecond s).pending = s.pending := by
  simp only [expireSecond, applySecond]; (repeat' split) <;> simp

/-- ROOM_OPEN reaches the room, the queue, the handsets, the scoreboard and the events alone. -/
@[simp] theorem applyRoomOpen_frame (r : Nat) (s : State) :
    (applyRoomOpen r s).resetLow = s.resetLow ∧ (applyRoomOpen r s).busResetLow = s.busResetLow ∧ (applyRoomOpen r s).anchorSel = s.anchorSel ∧
    (applyRoomOpen r s).timebase = s.timebase ∧ (applyRoomOpen r s).bus = s.bus ∧ (applyRoomOpen r s).blocked = s.blocked ∧
    (applyRoomOpen r s).anchor = s.anchor ∧ (applyRoomOpen r s).intake = s.intake ∧ (applyRoomOpen r s).clock = s.clock ∧
    (applyRoomOpen r s).lyrics = s.lyrics ∧ (applyRoomOpen r s).compositor = s.compositor ∧ (applyRoomOpen r s).framers = s.framers ∧
    (applyRoomOpen r s).flights = s.flights ∧ (applyRoomOpen r s).melody = s.melody ∧ (applyRoomOpen r s).parser = s.parser ∧
    (applyRoomOpen r s).choices = s.choices ∧ (applyRoomOpen r s).pending = s.pending := by
  simp [applyRoomOpen, raiseIfLow]

end Sys2Proof.Machine
end

