-- ==== Sys2Proof/Laws/Tables.lean ====
section
/-! SUPPORT. The tables with a fixed number of members and the byte stores: read after write, and the canonical form of
a store. -/

namespace Sys2Proof.Machine

/-! ### Fixed tables -/

/-- A member after one has been replaced, by number: simp brings a `Fin` index to this form. -/
@[simp] theorem setAt_getNat {α : Type} {n : Nat} (v : Vector α n) (i : Fin n) (x : α) (j : Nat) (hj : j < n) :
    (setAt v i x)[j] = if i.val = j then x else v[j] := by
  simp [setAt, Vector.getElem_set]

theorem setAt_self {α : Type} {n : Nat} (v : Vector α n) (i : Fin n) (x : α) : (setAt v i x)[i] = x := by simp

theorem setAt_other {α : Type} {n : Nat} (v : Vector α n) (i j : Fin n) (x : α) (h : j ≠ i) : (setAt v i x)[j] = v[j] := by
  have h' : i.val ≠ j.val := fun e => h (Fin.ext e.symm)
  simp [h']

theorem setAt_get {α : Type} {n : Nat} (v : Vector α n) (i j : Fin n) (x : α) :
    (setAt v i x)[j] = if j = i then x else v[j] := by
  by_cases h : j = i
  · rw [if_pos h, h, setAt_self]
  · rw [if_neg h, setAt_other v i j x h]

@[simp] theorem setAt_setAt {α : Type} {n : Nat} (v : Vector α n) (i : Fin n) (x y : α) :
    setAt (setAt v i x) i y = setAt v i y := by
  simp [setAt]

@[simp] theorem setAt_get_self {α : Type} {n : Nat} (v : Vector α n) (i : Fin n) : setAt v i v[i] = v := by
  simp [setAt]

@[simp] theorem mapAll_getNat {α β : Type} {n : Nat} (f : α → β) (v : Vector α n) (j : Nat) (hj : j < n) :
    (mapAll f v)[j] = f v[j] := by
  simp [mapAll]

theorem mapAll_get {α β : Type} {n : Nat} (f : α → β) (v : Vector α n) (i : Fin n) : (mapAll f v)[i] = f v[i] := by simp

/-! ### Byte stores -/

/-- A store in canonical form from a position on is one from any lower position on. -/
theorem Mem.wfFrom_mono {m : Mem} {lo lo' : Nat} (h : lo' ≤ lo) (hm : Mem.wfFrom lo m = true) : Mem.wfFrom lo' m = true := by
  cases m with
  | nil => rfl
  | cons c m =>
    obtain ⟨a, v⟩ := c
    simp only [Mem.wfFrom, Bool.and_eq_true, decide_eq_true_eq] at hm ⊢
    exact ⟨⟨by omega, hm.1.2⟩, hm.2⟩

/-- A position below a store's first reads 0. -/
theorem Mem.read_below {m : Mem} {lo a : Nat} (hm : Mem.wfFrom lo m = true) (h : a < lo) : m.read a = 0 := by
  induction m generalizing lo with
  | nil => rfl
  | cons c m ih =>
    obtain ⟨b, v⟩ := c
    simp only [Mem.wfFrom, Bool.and_eq_true, decide_eq_true_eq] at hm
    have hne : a ≠ b := by omega
    simpa [Mem.read, hne] using ih hm.2 (by omega)

/-- A write leaves every other position alone, in any store. -/
theorem Mem.read_write_other (m : Mem) (a p : Nat) (v : Byte) (h : p ≠ a) : (m.write a v).read p = m.read p := by
  induction m with
  | nil =>
    simp only [Mem.write]; split
    · rfl
    · simp [Mem.read, h]
  | cons c m ih =>
    obtain ⟨b, w⟩ := c
    simp only [Mem.write]
    split
    · split
      · rfl
      · simp [Mem.read, h]
    · split
      · rename_i hab
        subst hab
        split <;> simp [Mem.read, h]
      · by_cases hpb : p = b
        · simp [Mem.read, hpb]
        · simp [Mem.read, hpb, ih]

/-- In a store of canonical form the byte written is read back. -/
theorem Mem.read_write_self {m : Mem} {lo : Nat} (hm : Mem.wfFrom lo m = true) (a : Nat) (v : Byte) :
    (m.write a v).read a = v := by
  induction m generalizing lo with
  | nil =>
    by_cases hv : v = 0#8 <;> simp [Mem.write, Mem.read, hv]
  | cons c m ih =>
    obtain ⟨b, w⟩ := c
    simp only [Mem.wfFrom, Bool.and_eq_true, decide_eq_true_eq] at hm
    simp only [Mem.write]
    by_cases h1 : a < b
    · by_cases hv : v = 0#8
      · have hab : a ≠ b := by omega
        simpa [h1, hv, Mem.read, hab] using Mem.read_below hm.2 (by omega)
      · simp [h1, hv, Mem.read]
    · by_cases h2 : a = b
      · subst h2
        by_cases hv : v = 0#8
        · simpa [h1, hv] using Mem.read_below hm.2 (Nat.lt_succ_self a)
        · simp [hv, Mem.read]
      · simpa [h1, h2, Mem.read] using ih hm.2

/-- Every write keeps the canonical form. -/
theorem Mem.write_wfFrom {m : Mem} {lo a : Nat} {v : Byte} (hm : Mem.wfFrom lo m = true) (h : lo ≤ a) :
    Mem.wfFrom lo (m.write a v) = true := by
  induction m generalizing lo with
  | nil => by_cases hv : v = 0#8 <;> simp [Mem.write, Mem.wfFrom, hv, h]
  | cons c m ih =>
    obtain ⟨b, w⟩ := c
    simp only [Mem.wfFrom, Bool.and_eq_true, decide_eq_true_eq] at hm
    simp only [Mem.write]
    by_cases h1 : a < b
    · by_cases hv : v = 0#8
      · simp [h1, hv, Mem.wfFrom, hm.1.1, hm.2]; exact hm.1.2
      · have h3 : a + 1 ≤ b := h1
        simp [h1, hv, Mem.wfFrom, hm.2, h, h3]; exact hm.1.2
    · by_cases h2 : a = b
      · subst h2
        by_cases hv : v = 0#8
        · simpa [h1, hv] using Mem.wfFrom_mono (show lo ≤ a + 1 by omega) hm.2
        · simp [hv, Mem.wfFrom, hm.2, h]
      · have h3 : b + 1 ≤ a := by omega
        simp [h1, h2, Mem.wfFrom, hm.1.1, ih hm.2 h3]; exact hm.1.2

theorem Mem.write_wf {m : Mem} (hm : m.wf = true) (a : Nat) (v : Byte) : (m.write a v).wf = true :=
  Mem.write_wfFrom hm (Nat.zero_le a)

/-- Every selective beat write keeps the canonical form. -/
theorem Mem.writeWhere_wf {m : Mem} (hm : m.wf = true) (base : Nat) (d : Data) (sel : Nat → Bool) :
    (m.writeWhere base d sel).wf = true := by
  unfold Mem.writeWhere
  generalize List.range 8 = l
  induction l generalizing m with
  | nil => exact hm
  | cons i l ih =>
    simp only [List.foldl_cons]
    split
    · exact ih (Mem.write_wf hm _ _)
    · exact ih hm

theorem Mem.writeBeat_wf {m : Mem} (hm : m.wf = true) (base : Nat) (d : Data) (en : Enables) :
    (m.writeBeat base d en).wf = true := Mem.writeWhere_wf hm _ _ _

/-- What a selective beat write leaves in any of the positions. -/
theorem Mem.read_writeList {m : Mem} (hm : m.wf = true) (base : Nat) (d : Data) (sel : Nat → Bool) (l : List Nat) (p : Nat) :
    (l.foldl (fun m i => if sel i then m.write (base + i) (dataByte d i) else m) m).read p =
      if base ≤ p ∧ p - base ∈ l ∧ sel (p - base) = true then dataByte d (p - base) else m.read p := by
  induction l generalizing m with
  | nil => simp
  | cons i l ih =>
    simp only [List.foldl_cons]
    by_cases hs : sel i = true
    · rw [if_pos hs, ih (Mem.write_wf hm _ _)]
      by_cases hp : base ≤ p ∧ p - base ∈ l ∧ sel (p - base) = true
      · simp [hp]
      · rw [if_neg hp]
        by_cases hi : p = base + i
        · subst hi
          simp [hs, Mem.read_write_self hm]
        · rw [Mem.read_write_other _ _ _ _ hi, if_neg]
          rintro ⟨h1, h2, h3⟩
          rcases List.mem_cons.mp h2 with h2 | h2
          · omega
          · exact hp ⟨h1, h2, h3⟩
    · rw [if_neg hs, ih hm]
      congr 1
      apply propext
      constructor
      · rintro ⟨h1, h2, h3⟩; exact ⟨h1, List.mem_cons_of_mem _ h2, h3⟩
      · rintro ⟨h1, h2, h3⟩
        rcases List.mem_cons.mp h2 with h2 | h2
        · rw [h2] at h3; exact absurd h3 hs
        · exact ⟨h1, h2, h3⟩

/-- What a beat write leaves at every position, in a store of canonical form. -/
theorem Mem.read_writeWhere {m : Mem} (hm : m.wf = true) (base : Nat) (d : Data) (sel : Nat → Bool) (p : Nat) :
    (m.writeWhere base d sel).read p =
      if base ≤ p ∧ p < base + 8 ∧ sel (p - base) = true then dataByte d (p - base) else m.read p := by
  rw [Mem.writeWhere, Mem.read_writeList hm]
  simp only [List.mem_range]
  congr 1
  apply propext
  constructor
  · rintro ⟨h1, h2, h3⟩; exact ⟨h1, by omega, h3⟩
  · rintro ⟨h1, h2, h3⟩; exact ⟨h1, by omega, h3⟩

end Sys2Proof.Machine
end

