-- ==== Sys2Proof/Laws/Ops.lean ====
section
/-! SUPPORT. What the shared operations do, said once in the terms of the claims: events, commands, queue changes,
handset records, the bus's taking of data, the standby evaluation and a load. -/

namespace Sys2Proof.Machine

/-! ### Events -/

theorem signalled_of_pending {n : Nat} {s : State} (h : s.events.getLsbD n = true) : signalled n s = s := by
  have hb : s.events ||| BitVec.twoPow 16 n = s.events := by
    apply BitVec.eq_of_getLsbD_eq
    intro i hi
    by_cases hin : n = i
    · subst hin; simp [h]
    · simp [BitVec.getLsbD_twoPow, hin]
  cases s
  simp_all [signalled]

/-- Raising event e is signalling its number. -/
theorem raise_eq (e : Event) (s : State) : raise e s = signalled e.num s := by
  unfold raise State.eventPending
  split
  · exact (signalled_of_pending ‹_›).symm
  · rename_i h
    simp [signalled, h]

theorem raiseIf_eq (c : Bool) (e : Event) (s : State) : raiseIf c e s = if c = true then signalled e.num s else s := by
  simp [raiseIf, raise_eq]

/-- A signalled event is pending. -/
theorem signalled_pending {n : Nat} (h : n < 16) (s : State) : (signalled n s).events.getLsbD n = true := by
  simp [signalled, h]

/-- Signalling leaves every other flag. -/
theorem signalled_other {n k : Nat} (h : k ≠ n) (s : State) : (signalled n s).events.getLsbD k = s.events.getLsbD k := by
  have h' : n ≠ k := fun e => h e.symm
  simp [signalled, BitVec.getLsbD_twoPow, h']

/-- Signalling twice is signalling once. -/
theorem signalled_signalled {n : Nat} (h : n < 16) (s : State) : signalled n (signalled n s) = signalled n s :=
  signalled_of_pending (signalled_pending h s)

/-! ### Commands -/

/-- A command taken: the owner's outcome with its state, recorded. -/
theorem takeCommand_eq (slot : CmdSlot) (code : Byte) (op : State → CmdOutcome × State) (s : State) :
    takeCommand slot code op s =
      raiseIf (decide ((op (setFirstHalf none s)).1 ≠ .done)) .commandRefused
        { (op (setFirstHalf none s)).2 with
          intake := { (op (setFirstHalf none s)).2.intake with
            last := { valid := true, hostTag := slot.hostTag, code := code, outcome := (op (setFirstHalf none s)).1
                      entry := slot.entry, offset := slot.offset } }
          statusGen := (op (setFirstHalf none s)).2.statusGen + 1 } := rfl

/-- A record written over a state whose first half is absent is the state after the command. -/
theorem recordCommand_eq (slot : CmdSlot) (code : Byte) (o : CmdOutcome) (s : State) (h : s.intake.firstHalf = none) :
    recordCommand slot code o s = afterCommand slot code o s := by
  have hp : BitVec.twoPow 16 2 = 4#16 := by decide
  obtain ⟨⟩ := s
  rename_i intake _ _ _ _ _ _ _ _ _ _ _ _ _ _ _
  obtain ⟨fh, l⟩ := intake
  subst h
  by_cases ho : o = .done
  · simp [recordCommand, afterCommand, raiseIf, ho]
  · simp only [recordCommand, afterCommand, raiseIf_eq, signalled, ho, Event.num, hp]
    simp [ho]

/-- A refused command: nothing but the record and the event. -/
theorem takeCommand_refused (slot : CmdSlot) (code : Byte) (op : State → CmdOutcome × State) (o : CmdOutcome) (s : State)
    (h : op (setFirstHalf none s) = (o, setFirstHalf none s)) : takeCommand slot code op s = afterCommand slot code o s := by
  rw [takeCommand, h, recordCommand_eq _ _ _ _ rfl]
  rfl

/-- A command that is DONE: the owner's state, recorded. -/
theorem takeCommand_done (slot : CmdSlot) (code : Byte) (op : State → CmdOutcome × State) (s u : State)
    (h : op (setFirstHalf none s) = (.done, u)) (hi : u.intake = (setFirstHalf none s).intake) :
    takeCommand slot code op s = { u with intake := doneRecord slot code, statusGen := u.statusGen + 1 } := by
  rw [takeCommand_eq, h, hi]
  rfl

/-! ### The queue -/

/-- A change of the queue: the generation and QUEUE_CHANGED. -/
theorem queueChanged_eq (s : State) :
    queueChanged s = signalled 14 { s with queue := { s.queue with gen := s.queue.gen + 1 } } := raise_eq _ _

/-- A change of the list with the evaluation that follows it. -/
theorem standbyEvaluate_change (es : List Entry) (tag : Nat) (s : State) :
    standbyEvaluate (queueChanged { s with queue := { s.queue with entries := es, nextTag := tag } }) =
      afterQueueChange es tag s := by
  simp only [queueChanged_eq, standbyEvaluate, afterQueueChange, evaluated, signalled, State.budget]
  by_cases h : standbyWalk s.budget 0 es = es
  · simp only [State.budget] at h
    simp [h]
  · simp only [State.budget] at h
    simp [h, BitVec.add_assoc, BitVec.or_assoc]

/-- A standby evaluation, said once: nothing when no state changes, else the list, its count and QUEUE_CHANGED. -/
theorem standbyEvaluate_eq (s : State) :
    standbyEvaluate s =
      if evaluated s s.queue.entries = s.queue.entries then s
      else signalled 14 { s with queue := { s.queue with entries := evaluated s s.queue.entries, gen := s.queue.gen + 1 } } := by
  simp only [standbyEvaluate, queueChanged_eq, evaluated]
  rfl

/-- A standby evaluation leaves what its budget is computed from. -/
theorem evaluated_standbyEvaluate (s : State) (es : List Entry) : evaluated (standbyEvaluate s) es = evaluated s es := by
  simp [evaluated, State.budget]

/-- The budget reads the room, the anchor and the clock alone. -/
theorem evaluated_congr {x y : State} (h1 : x.room = y.room) (h2 : x.anchor = y.anchor) (h3 : x.clock = y.clock) (es : List Entry) :
    evaluated x es = evaluated y es := by
  simp [evaluated, State.budget, h1, h2, h3]

theorem evaluatedQueue_congr {x y : State} (h1 : x.room = y.room) (h2 : x.anchor = y.anchor) (h3 : x.clock = y.clock) (q : Queue) :
    evaluatedQueue x q = evaluatedQueue y q := by
  simp [evaluatedQueue, evaluated_congr h1 h2 h3]

/-- A second evaluation against the same budget changes nothing. -/
theorem standbyWalk_walk (b sum : Nat) (es : List Entry) : standbyWalk b sum (standbyWalk b sum es) = standbyWalk b sum es := by
  induction es generalizing sum with
  | nil => rfl
  | cons e es ih => simp only [standbyWalk]; (repeat' split) <;> simp_all [standbyWalk]

/-- The standby evaluation that ends a change of the queue, QUEUE_CHANGED being pending already. -/
theorem standbyEvaluate_pending (s : State) (h : s.events.getLsbD 14 = true) :
    standbyEvaluate s = { s with queue := { s.queue with
      entries := evaluated s s.queue.entries
      gen := s.queue.gen + (if evaluated s s.queue.entries = s.queue.entries then 0 else 1) } } := by
  rw [standbyEvaluate_eq]
  split
  · rename_i e; rw [e]; simp
  · exact signalled_of_pending h

/-- The queue after a standby evaluation. -/
theorem standbyEvaluate_queue (s : State) : (standbyEvaluate s).queue = evaluatedQueue s s.queue := by
  rw [standbyEvaluate_eq, evaluatedQueue]
  split
  · rename_i e; rw [e]; simp
  · rfl

/-- The queue after a change that has advanced the generation, and the standby evaluation that follows it. -/
theorem standbyEvaluate_counted (s : State) (q : Queue) (h : s.events.getLsbD 14 = true)
    (hq : s.queue = { q with gen := q.gen + 1 }) :
    (standbyEvaluate s).queue =
      { q with
        entries := evaluated s q.entries
        gen := q.gen + (if evaluated s q.entries = q.entries then 1 else 2) } := by
  rw [standbyEvaluate_pending s h, hq]
  by_cases e : evaluated s q.entries = q.entries <;> simp [e, BitVec.add_assoc]

/-- A standby evaluation leaves the list evaluated. -/
theorem standbyEvaluate_entries (s : State) : (standbyEvaluate s).queue.entries = evaluated s s.queue.entries := by
  simp only [standbyEvaluate]
  split
  · rename_i h; exact h.symm
  · simp [queueChanged_eq, signalled, evaluated]

/-- A standby evaluation leaves the rest of the queue. -/
theorem standbyEvaluate_rest (s : State) :
    (standbyEvaluate s).queue.nowPlaying = s.queue.nowPlaying ∧ (standbyEvaluate s).queue.nextTag = s.queue.nextTag := by
  simp only [standbyEvaluate]
  split <;> simp [queueChanged_eq, signalled]

/-- The walk changes states alone, so the list keeps its length. -/
theorem standbyWalk_length (b sum : Nat) (es : List Entry) : (standbyWalk b sum es).length = es.length := by
  induction es generalizing sum with
  | nil => rfl
  | cons e es ih => simp only [standbyWalk]; (repeat' split) <;> simp [ih]

/-- Placing an element adds it and nothing else. -/
theorem placeAt_perm {α : Type} (l : List α) (n : Nat) (x : α) : (placeAt l n x).Perm (x :: l) := by
  unfold placeAt
  split
  · exact List.perm_append_singleton x l
  · calc
      (l.take (n - 1) ++ x :: l.drop (n - 1)).Perm (x :: (l.take (n - 1) ++ l.drop (n - 1))) := List.perm_middle
      _ = x :: l := by rw [List.take_append_drop]

/-! ### Handset records -/

theorem putHandset_record (h : Fin 16) (r : Handset) (s : State) : (putHandset h r s).handsets.records = setAt s.handsets.records h r := rfl

/-- A change of a handset's record, whatever events and skip test it brings. -/
theorem skipTest_records (s : State) : (skipTest s).handsets.records = s.handsets.records := by
  simp only [skipTest]; split <;> simp

theorem changeHandset_record (h : Fin 16) (r : Handset) (s : State) :
    (changeHandset h r s).handsets.records = setAt s.handsets.records h r := by
  simp only [changeHandset]
  split <;> simp [skipTest_records, putHandset_record]

/-- A change of state is pending as HANDSET_CHANGE. -/
theorem changeHandset_event (h : Fin 16) (r : Handset) (s : State) (hr : s.handsets.records[h].state ≠ r.state) :
    (changeHandset h r s).events.getLsbD 12 = true := by
  have base : (raiseIf (decide (s.handsets.records[h].state ≠ r.state)) .handsetChange (putHandset h r s)).events.getLsbD 12
      = true := by
    rw [raiseIf_eq, if_pos (by simpa using hr)]
    exact signalled_pending (by decide) _
  simp only [changeHandset]
  split
  · exact base
  · unfold skipTest
    split
    · rw [raise_eq, signalled_other (by decide)]; exact base
    · exact base

/-! ### The bus -/

/-- No request is held: nothing more is accepted. -/
theorem acceptHeld_none {s : State} (h : s.bus.held = none) : acceptHeld s = s := by
  simp [acceptHeld, h]

/-- A next beat's data taken: the beat is handed over on the state with its data. -/
theorem takeBeat_eq {s u : State} {b : Beat} {d : Data} {en : Enables} (h : TakesData s b d en u) :
    takeBeat d en s = acceptHeld (deliverBeat b d en u) := by
  obtain ⟨l, hl, hdir, hlen, hb, -, rfl⟩ := h
  have ht : l.dataTaken = false := by
    simp only [Listed.dataTaken, hdir]
    simpa using hlen
  simp only [takeBeat, hl, ht, hb]
  rfl

/-- The data taken leaves the held request, the reset inputs and every block but the bus. -/
theorem TakesData.frame {s u : State} {b : Beat} {d : Data} {en : Enables} (h : TakesData s b d en u) :
    u.bus.held = none ∧ u = { s with bus := u.bus } := by
  obtain ⟨l, -, -, -, -, hh, rfl⟩ := h
  exact ⟨hh, rfl⟩

/-! ### SONG_LOAD (R41) -/

/-- Each channel loaded with its part (R114). -/
theorem loadChannels_get (parts : Byte) (d : Difficulty) (k : Int) (s : State) (c : Fin 4) :
    (loadChannels parts d k s).score.channels[c] = (s.score.channels[c]).load (partOfMap parts c.val) d k := by
  have h : (List.finRange 4) = [0, 1, 2, 3] := by decide
  simp only [loadChannels, h, List.foldl_cons, List.foldl_nil]
  have : c = 0 ∨ c = 1 ∨ c = 2 ∨ c = 3 := by omega
  rcases this with rfl | rfl | rfl | rfl <;> simp only [setAt_get] <;> simp
/-- Emptying the vote set changes as many memberships as it had members. -/
theorem changesUnder_unvote (x : Handsets) : x.changesUnder Handset.unvote = x.records.toList.countP (fun r => r.vote) := by
  simp only [Handsets.changesUnder]
  induction x.records.toList with
  | nil => rfl
  | cons r l ih =>
    simp only [List.map_cons, List.sum_cons, List.countP_cons, ih]
    cases h : r.vote <;> simp [Handset.changes, Handset.unvote, changed, h]; omega

/-- A load, said once (R41, R70, R85, R99, R114, R137, R153, R163). -/
theorem applyLoad_eq (r : LoadRequest) (n : NowPlaying) (es : List Entry) (s : State) :
    applyLoad r n es s =
      { s with
        clock := loadClock r n s.anchor.bytes s.clock
        compositor := { s.compositor with floorNote := r.floorNote, ceilNote := r.ceilNote, key := n.key }
        lyrics := (clearChain 0 s).lyrics
        framers := mapAll Framer.restart s.framers
        score := (loadChannels r.parts n.difficulty n.key s).score
        handsets :=
          { records := mapAll Handset.unvote s.handsets.records, votePassed := false
            gen := s.handsets.gen + BitVec.ofNat 32 (s.handsets.records.toList.countP (fun r => r.vote)) }
        queue :=
          { entries := evaluated (applyLoad r n es s) es, nextTag := s.queue.nextTag, nowPlaying := some n
            gen := s.queue.gen + (if evaluated (applyLoad r n es s) es = es then 1 else 2) }
        events := s.events ||| BitVec.twoPow 16 14
        statusGen := s.statusGen + (if s.events.getLsbD 14 = true then 0 else 1) } := by
  rw [show evaluated (applyLoad r n es s) es = evaluated _ es from evaluated_standbyEvaluate _ es]
  simp only [applyLoad, takeSong, queueChanged_eq]
  generalize hu : clearVotes _ = u
  have hp : u.events.getLsbD 14 = true := by
    rw [← hu]
    simp only [clearVotes, bumpHandsets, restartFramers, clearChain, loadChannels]
    exact signalled_pending (by decide) _
  have hq := standbyEvaluate_counted u { s.queue with entries := es, nowPlaying := some n } hp (by rw [← hu]; rfl)
  have he := standbyEvaluate_pending u hp
  generalize standbyEvaluate u = t at hq he
  have ht : t = { u with queue := t.queue } := by rw [he]
  rw [ht, hq, ← changesUnder_unvote]
  generalize evaluated u es = out
  rw [← hu]
  simp only [clearVotes, bumpHandsets, restartFramers, clearChain, loadChannels, signalled]

end Sys2Proof.Machine
end

