-- ==== Sys2Proof/Laws/Bus.lean ====
section
/-! SUPPORT. What the bus path's operations on runs do: a run given a status, the owner of a completion, the memory's data
for a beat, the decidable parts of a request's completion, containment, and the row FRAME_COMPLETE. -/

namespace Sys2Proof.Machine

theorem Listed.setRun_eq (l : Listed) (done rest : List Run) (r : Run) (st : RunStatus) (h : l.runs = done ++ r :: rest) :
    l.setRun done.length st = { l with runs := done ++ { r with status := st } :: rest } := by
  simp [Listed.setRun, h]

/-- A change of the request that carries a serial leaves a list without it. -/
theorem map_serial_none (list : List Listed) (serial : Nat) (f : Listed → Listed) (h : ∀ x ∈ list, x.serial ≠ serial) :
    list.map (fun l => if l.serial = serial then f l else l) = list := by
  rw [List.map_congr_left (g := id)]
  · simp
  · intro a ha; simp [h a ha]

/-- A change of the request that carries a serial reaches that request alone. -/
theorem map_serial_one (before after : List Listed) (l : Listed) (serial : Nat) (f : Listed → Listed)
    (h : ∀ x ∈ before ++ after, x.serial ≠ serial) (hl : l.serial = serial) :
    (before ++ l :: after).map (fun l => if l.serial = serial then f l else l) = before ++ f l :: after := by
  simp only [List.map_append, List.map_cons, hl, if_true,
    map_serial_none before serial f (fun x hx => h x (by simp [hx])),
    map_serial_none after serial f (fun x hx => h x (by simp [hx]))]

/-- The memory's data for a beat is that of the completed run that holds it. -/
theorem Listed.memoryData_eq (l : Listed) (done more : List Run) (r : Run) (f : Bool) (y : List Data) (m : Data) (k : Nat)
    (h : l.runs = done ++ r :: more) (hr : r.status = .completed f y)
    (hd : ∀ q ∈ done, ∀ g z, q.status = .completed g z → q.first + z.length ≤ k) (h1 : r.first ≤ k)
    (hy : y[k - r.first]? = some m) : l.memoryData k = m := by
  have earlier : done.findSome? (fun r => r.dataOf k) = none := by
    rw [List.findSome?_eq_none_iff]
    intro q hq
    unfold Run.dataOf
    cases hs : q.status with
    | completed g z => have := hd q hq g z hs; simp; intro; omega
    | waiting => rfl
    | forwarded => rfl
  unfold Listed.memoryData
  rw [h, List.findSome?_append, earlier]
  simp [Run.dataOf, hr, h1, hy]

/-- A request whose runs are completed and whose write data is taken can complete. -/
theorem Listed.finished_of (l : Listed) (hr : ∀ r ∈ l.runs, ∃ f x, r.status = .completed f x)
    (ht : l.request.dir = .write → l.beats.length ≤ l.taken.length) : l.finished = true := by
  simp only [Listed.finished, Bool.and_eq_true, List.all_eq_true]
  constructor
  · intro r h; obtain ⟨f, x, e⟩ := hr r h; simp [Run.completed, e]
  · unfold Listed.dataTaken; cases hd : l.request.dir <;> simp [ht, hd]

/-! ### Containment (R7) -/

/-- A live entry of size code s contains an address when the XOR with its base is 0 from bit 12 + s upward. -/
theorem covers_ruled (x : Anchor) (a : Addr) (i : Fin 16) : x.covers a i = true ↔ x.live.getLsbD i.val = true ∧
      ∀ k, 12 + (x.bytes.read (16 * i.val + 6)).toNat ≤ k → k < 32 →
        (a ^^^ BitVec.ofNat 32 (word32 x.bytes (16 * i.val))).getLsbD k = false := by
  have hsz : entrySizeCode x.bytes i.val = (x.bytes.read (16 * i.val + 6)).toNat := by
    simp [entrySizeCode, Mem.field]
  have hb : entryBase x.bytes i.val = BitVec.ofNat 32 (word32 x.bytes (16 * i.val)) &&& 0xFFFFF000 := by
    rw [entryBase]; congr 2
    have e : word32 x.bytes (16 * i.val) = x.bytes.field (16 * i.val) 4 := by
      simp only [Mem.field, word32, word24, word16, Nat.add_assoc, Nat.reduceAdd]; omega
    exact e.symm
  have hm : ∀ k, 12 ≤ k → k < 32 → (0xFFFFF000 : Addr).getLsbD k = true := by decide
  simp only [Anchor.covers, containsAddr, Bool.and_eq_true, decide_eq_true_eq, hsz]
  refine and_congr_right fun _ => ?_
  generalize BitVec.ofNat 32 (word32 x.bytes (16 * i.val)) = w at *
  rw [hb]
  constructor
  · intro h k h1 h2
    have := congrArg (fun v : Addr => v.getLsbD (k - (12 + (x.bytes.read (16 * i.val + 6)).toNat))) h
    simp only [BitVec.getLsbD_ushiftRight] at this
    rw [show 12 + (x.bytes.read (16 * i.val + 6)).toNat + (k - (12 + (x.bytes.read (16 * i.val + 6)).toNat)) = k by omega] at this
    simp only [BitVec.getLsbD_xor, BitVec.getLsbD_and, hm k (by omega) h2, Bool.and_true] at this
    rw [BitVec.getLsbD_xor, this]; exact BitVec.getLsbD_zero
  · intro h
    apply BitVec.eq_of_getLsbD_eq
    intro j hj
    simp only [BitVec.getLsbD_ushiftRight, BitVec.getLsbD_xor, BitVec.getLsbD_and]
    by_cases hk : 12 + (x.bytes.read (16 * i.val + 6)).toNat + j < 32
    · have := h _ (Nat.le_add_right _ j) hk
      rw [BitVec.getLsbD_xor] at this
      rw [hm _ (by omega) hk, Bool.and_true, this]; exact BitVec.getLsbD_zero.symm
    · rw [BitVec.getLsbD_of_ge _ _ (by omega), BitVec.getLsbD_of_ge w _ (by omega), Bool.false_and]; exact BitVec.getLsbD_zero.symm

/-! ### The capture beat that completes a frame (R94, R98, R179) -/

/-- A window that the checks give a beat is an entry as the shadow has it. -/
theorem matchBeat_window {sel : BitVec 2} {x : Anchor} {dir : Dir} {tag : Fin 16} {a : Addr} {w : Win} {role : Role} {unit : Nat}
    (h : matchBeat sel x dir tag a = .window w role unit) : w = x.window w.index := by
  unfold matchBeat Anchor.ownerMatch at h
  repeat' split at h
  all_goals first | (injection h with h; rw [← h]; rfl) | cases h

/-- The model's test of R179 is the claims' one. -/
theorem captureCanCome_iff (c : Fin 4) (i : Fin 16) (a : Addr) (s : State) :
    captureCanCome c i a s = true ↔ CaptureCanCome s c i a := by
  simp only [captureCanCome, CaptureCanCome, List.any_eq_true, List.mem_finRange, true_and]
  refine exists_congr fun tag => ⟨fun h => ?_, fun ⟨unit, h, hu⟩ => by rw [h]; simpa [Anchor.window] using hu⟩
  split at h
  next w role unit hm =>
    obtain ⟨rfl, rfl, hu⟩ := of_decide_eq_true h
    exact ⟨unit, by rw [hm, ← matchBeat_window hm], hu⟩
  all_goals cases h

/-- All that FRAME_COMPLETE can do: the framer's next beat is appended, or nothing changes. -/
theorem frameBeat_cases (c : Fin 4) (d : Data) (s : State) :
    (∃ i a, s.framers[c].expected = some (i, a) ∧ s.framers[c].samples.length = 508 ∧ CaptureCanCome s c i a ∧
      frameBeat c d s = appendBeat c (s.anchor.window i) a d s) ∨
    frameBeat c d s = s ∧ (s.framers[c].expected = none ∨ s.framers[c].samples.length ≠ 508 ∨
      ∃ i a, s.framers[c].expected = some (i, a) ∧ ¬ CaptureCanCome s c i a) := by
  unfold frameBeat
  cases he : s.framers[c].expected with
  | none => exact .inr ⟨rfl, .inl rfl⟩
  | some e =>
    obtain ⟨i, a⟩ := e
    by_cases hl : s.framers[c].samples.length = 508
    · by_cases hc : CaptureCanCome s c i a
      · exact .inl ⟨i, a, rfl, hl, hc, if_pos ⟨hl, (captureCanCome_iff c i a s).2 hc⟩⟩
      · exact .inr ⟨if_neg fun h => hc ((captureCanCome_iff c i a s).1 h.2), .inr (.inr ⟨i, a, rfl, hc⟩)⟩
    · exact .inr ⟨if_neg fun h => hl h.1, .inr (.inl hl)⟩

end Sys2Proof.Machine
end

