-- ==== Sys2Proof/Laws/Events.lean ====
section
/-! SUPPORT. How the events raised by an operation, the status generation and the handset generation add up (R31, R34,
R142), operation by operation. -/

namespace Sys2Proof.Machine

/-! ### `Raised`, step by step -/

/-- Turning one flag of a range on, where it was off, counts one more. -/
theorem countP_one_more (p q : Nat → Bool) (n : Nat) (hp : p n = false) (hq : q n = true) (h : ∀ k, k ≠ n → q k = p k) (m : Nat) :
    (List.range m).countP q = (List.range m).countP p + (if n < m then 1 else 0) := by
  induction m with
  | zero => rfl
  | succ m ih =>
    rw [List.range_succ, List.countP_append, List.countP_append, ih]
    by_cases e : m = n
    · subst e; simp [hp, hq]
    · have : (n < m + 1) = (n < m) := by rw [eq_iff_iff]; omega
      simp [h m e, this]; omega

theorem Raised.refl (s : State) : Raised s s 0 (fun _ => False) := by
  refine ⟨fun n _ => by simp, ?_⟩
  have : (List.range 16).countP (fun n => s.events.getLsbD n && !s.events.getLsbD n) = 0 :=
    List.countP_eq_zero.mpr fun n _ => by simp
  rw [this]; simp

/-- Events and status generation alone decide it. -/
theorem Raised.congr {s t u : State} {r : Nat} {p : Nat → Prop} (h : Raised s t r p) (he : u.events = t.events)
    (hg : u.statusGen = t.statusGen) : Raised s u r p := by
  unfold Raised at h ⊢
  rw [he, hg]; exact h

/-- The same of the state it starts from. -/
theorem Raised.source {s t u : State} {r : Nat} {p : Nat → Prop} (h : Raised s t r p) (he : u.events = s.events)
    (hg : u.statusGen = s.statusGen) : Raised u t r p := by
  unfold Raised at h ⊢
  rw [he, hg]; exact h

theorem Raised.mono {s t : State} {r : Nat} {p q : Nat → Prop} (h : Raised s t r p)
    (hp : ∀ n, n < 16 → (s.events.getLsbD n = true ∨ p n ↔ s.events.getLsbD n = true ∨ q n)) : Raised s t r q :=
  ⟨fun n hn => (h.1 n hn).trans (hp n hn), h.2⟩

/-- The names of the events may be exchanged for equivalent ones. -/
theorem Raised.iff {s t : State} {r : Nat} {p q : Nat → Prop} (h : Raised s t r p) (hp : ∀ n, p n ↔ q n) : Raised s t r q :=
  h.mono fun n _ => by rw [hp n]

/-- One more command recorded. -/
theorem Raised.record {s t u : State} {r : Nat} {p : Nat → Prop} (h : Raised s t r p) (he : u.events = t.events)
    (hg : u.statusGen = t.statusGen + 1) : Raised s u (r + 1) p := by
  unfold Raised at h ⊢
  rw [he, hg, h.2]
  refine ⟨h.1, ?_⟩
  generalize (List.range 16).countP _ = c
  rw [show r + 1 + c = (r + c) + 1 by omega, BitVec.ofNat_add (r + c) 1, ← BitVec.add_assoc]
  rfl

/-- The same over the state that the owner of a DONE command leaves, in the form of `takeCommand_done`. -/
theorem Raised.done {s u : State} {p : Nat → Prop} (slot : CmdSlot) (code : Byte) (h : Raised (setFirstHalf none s) u 0 p) :
    Raised s { u with intake := doneRecord slot code, statusGen := u.statusGen + 1 } 1 p :=
  Raised.record (t := u) (h.source rfl rfl) rfl rfl

/-- One more event. -/
theorem Raised.signalled {s t : State} {r : Nat} {p : Nat → Prop} (h : Raised s t r p) {n : Nat} (hn : n < 16) :
    Raised s (signalled n t) r (fun k => p k ∨ k = n) := by
  constructor
  · intro k hk
    by_cases e : k = n
    · subst e; simp [signalled_pending hk]
    · rw [signalled_other e, h.1 k hk]; simp [e]
  · by_cases hp : t.events.getLsbD n = true
    · rw [signalled_of_pending hp]; exact h.2
    · have hs : s.events.getLsbD n = false := by
        cases hs : s.events.getLsbD n with
        | false => rfl
        | true => exact absurd ((h.1 n hn).mpr (.inl hs)) hp
      have := countP_one_more (fun k => t.events.getLsbD k && !s.events.getLsbD k)
        (fun k => (Machine.signalled n t).events.getLsbD k && !s.events.getLsbD k) n (by simpa using fun h => absurd h hp)
        (by rw [signalled_pending hn, hs]; rfl) (fun k hk => by rw [signalled_other hk]) 16
      rw [this, if_pos hn, ← Nat.add_assoc, BitVec.ofNat_add, ← BitVec.add_assoc, ← h.2]
      have hb : t.events.getLsbD n = false := by simpa using hp
      simp only [Machine.signalled, hb]
      rfl

theorem Raised.signalledIf {s t : State} {r : Nat} {p : Nat → Prop} (h : Raised s t r p) (c : Bool) (e : Event) (he : e.num < 16) :
    Raised s (raiseIf c e t) r (fun k => p k ∨ k = e.num ∧ c = true) := by
  rw [raiseIf_eq]
  split
  · rename_i hc; exact (h.signalled he).iff fun k => by simp [hc]
  · rename_i hc; exact h.iff fun k => by simp [hc]

/-! ### The operations -/

theorem Raised.queueChanged {s t : State} {r : Nat} {p : Nat → Prop} (h : Raised s t r p) :
    Raised s (queueChanged t) r (fun k => p k ∨ k = 14) := by
  rw [queueChanged_eq]
  exact Raised.signalled (t := { t with queue := { t.queue with gen := t.queue.gen + 1 } }) (h.congr rfl rfl) (by decide)

theorem Raised.standbyEvaluate {s t : State} {r : Nat} {p : Nat → Prop} (h : Raised s t r p) :
    Raised s (standbyEvaluate t) r (fun k => p k ∨ k = 14 ∧ evaluated t t.queue.entries ≠ t.queue.entries) := by
  rw [standbyEvaluate_eq]
  split
  · rename_i e; exact h.iff fun k => by simp [e]
  · rename_i e
    refine (Raised.signalled (n := 14) (h.congr (u := { t with queue := { t.queue with
      entries := evaluated t t.queue.entries, gen := t.queue.gen + 1 } }) rfl rfl) (by decide)).iff fun k => by simp [e]

theorem Raised.skipTest {s t : State} {r : Nat} {p : Nat → Prop} (h : Raised s t r p) :
    Raised s (skipTest t) r (fun k => p k ∨ k = 11 ∧ t.handsets.votePassed = false ∧ (skipTest t).handsets.votePassed = true) := by
  unfold Machine.skipTest
  split
  · rename_i c
    have hv : t.handsets.votePassed = false := by
      simp only [Bool.and_eq_true, Bool.not_eq_true'] at c; exact c.1.2
    rw [raise_eq]
    refine (Raised.signalled (n := 11) (t := { t with handsets := { t.handsets with votePassed := true } }) (h.congr rfl rfl)
      (by decide)).iff fun k => ?_
    simp [hv, Machine.signalled, Event.num]
  · refine h.iff fun k => ?_
    constructor
    · exact .inl
    · rintro (h | ⟨-, a, b⟩)
      · exact h
      · rw [a] at b; exact absurd b (by decide)

theorem Raised.putHandset {s t : State} {r : Nat} {p : Nat → Prop} (h : Raised s t r p) (i : Fin 16) (x : Handset) :
    Raised s (putHandset i x t) r p := h.congr rfl rfl

/-- The skip test never clears the vote-passed flag. -/
theorem skipTest_keeps (s : State) (h : s.handsets.votePassed = true) : (skipTest s).handsets.votePassed = true := by
  simp [skipTest, h]

theorem changeHandset_keeps (i : Fin 16) (x : Handset) (s : State) (h : s.handsets.votePassed = true) :
    (changeHandset i x s).handsets.votePassed = true := by
  have h1 : ∀ c e, (raiseIf c e (Machine.putHandset i x s)).handsets.votePassed = true := by
    intro c e; rw [raiseIf_eq]; split <;> exact h
  unfold changeHandset
  dsimp only
  split
  · exact h1 _ _
  · exact skipTest_keeps _ (h1 _ _)

/-- A record changed: HANDSET_CHANGE with a change of state, SKIP_VOTE_PASSED with a pass of the skip test. -/
theorem Raised.changeHandset {s t : State} {r : Nat} {p : Nat → Prop} (h : Raised s t r p) (i : Fin 16) (x : Handset) :
    Raised s (changeHandset i x t) r (fun k => p k ∨ k = 12 ∧ t.handsets.records[i].state ≠ x.state ∨
      k = 11 ∧ t.handsets.votePassed = false ∧ (changeHandset i x t).handsets.votePassed = true) := by
  have h1 := (h.putHandset i x).signalledIf (decide (t.handsets.records[i].state ≠ x.state)) .handsetChange (by decide)
  have hv : ∀ c e, (raiseIf c e (Machine.putHandset i x t)).handsets.votePassed = t.handsets.votePassed := by
    intro c e; rw [raiseIf_eq]; split <;> rfl
  unfold Machine.changeHandset
  dsimp only
  split
  · refine h1.iff fun k => ?_
    rw [hv]
    have : ¬ (t.handsets.votePassed = false ∧ t.handsets.votePassed = true) := by rintro ⟨a, b⟩; rw [a] at b; exact absurd b (by decide)
    simp only [decide_eq_true_eq, Event.num]; tauto
  · refine h1.skipTest.iff fun k => ?_
    rw [hv]
    simp only [decide_eq_true_eq, Event.num]; tauto

theorem Raised.writeReply {s t : State} {r : Nat} {p : Nat → Prop} (h : Raised s t r p) (i : Fin 16) (q : Byte) (a : Answer) :
    Raised s (writeReply i q a t) r (fun k => p k ∨ k = 13) := by
  simp only [Machine.writeReply, raise_eq]
  exact Raised.signalled (n := 13) (h.congr rfl rfl) (by decide)

/-! ### The handset generation (R142) -/

theorem changes_ruled (x y : Handset) : x.changes y = countedChanges x y := rfl

theorem skipTest_gen (s : State) : (skipTest s).handsets.gen = s.handsets.gen := by
  unfold skipTest
  split
  · rw [raise_eq]; rfl
  · rfl

/-- A record changed advances the generation by the counted fields that differ. -/
theorem changeHandset_gen (i : Fin 16) (x : Handset) (s : State) :
    (changeHandset i x s).handsets.gen = s.handsets.gen + BitVec.ofNat 32 (countedChanges s.handsets.records[i] x) := by
  have h1 : ∀ c e, (raiseIf c e (putHandset i x s)).handsets.gen =
      s.handsets.gen + BitVec.ofNat 32 (countedChanges s.handsets.records[i] x) := by
    intro c e; rw [raiseIf_eq]; split <;> rfl
  unfold changeHandset
  dsimp only
  split
  · exact h1 _ _
  · rw [skipTest_gen]; exact h1 _ _

/-- A reply advances it once. -/
theorem writeReply_gen (i : Fin 16) (q : Byte) (a : Answer) (s : State) :
    (writeReply i q a s).handsets.gen = s.handsets.gen + 1 := by
  have hc : ∀ (x : Handset) (y : Reply) (n : Byte), x.changes { x with reply := y, replyCount := n } = 0 := by
    intro x y n; simp [Handset.changes, changed]
  simp only [writeReply, raise_eq, bumpHandsets, putHandset, hc]
  simp [signalled]

/-! ### ROOM_OPEN and ROOM_CLOSE (R137, R169, R171) -/

theorem vacate_ruled (r : Handset) : r.vacate = vacated r := rfl

/-- The Handset Table vacated, said once: the skip test that follows finds no vote. -/
theorem vacateHandsets_eq (s : State) :
    vacateHandsets s =
      raiseIf (s.handsets.statesChange Handset.vacate) .handsetChange
        { s with handsets :=
          { records := mapAll vacated s.handsets.records, votePassed := s.handsets.votePassed
            gen := s.handsets.gen + BitVec.ofNat 32 (s.handsets.records.toList.map (fun r => countedChanges r (vacated r))).sum } } := by
  generalize hu : raiseIf _ _ _ = u
  have hr : u.handsets.records = mapAll vacated s.handsets.records := by
    rw [← hu, raiseIf_eq]; split <;> rfl
  have hn : u.handsets.votesPass = false := by
    have : u.handsets.voteCount = 0 := by
      rw [Handsets.voteCount, hr, List.countP_eq_zero]
      intro a ha
      obtain ⟨b, -, rfl⟩ : ∃ b, b ∈ s.handsets.records.toList ∧ vacated b = a := by simpa [mapAll] using ha
      simp [vacated]
    have : 1 ≤ ceilDiv (max 1 u.handsets.activeCount) 2 := by simp only [ceilDiv]; omega
    simp only [Handsets.votesPass, decide_eq_false_iff_not]; omega
  have hk : skipTest u = u := by simp [skipTest, hn]
  have he : vacateHandsets s = if u.handsets.activeCount = s.handsets.activeCount then u else skipTest u := by
    rw [← hu]; rfl
  rw [he, hk]; split <;> rfl

theorem statesChange_vacate (x : Handsets) :
    x.statesChange Handset.vacate = true ↔ ∃ h : Fin 16, (x.records[h]).state ≠ .absent := by
  simp only [Handsets.statesChange, List.any_eq_true, decide_eq_true_eq, Vector.mem_toList_iff, Vector.mem_iff_getElem]
  constructor
  · rintro ⟨r, ⟨i, hi, rfl⟩, h⟩; exact ⟨⟨i, hi⟩, h⟩
  · rintro ⟨h, hh⟩; exact ⟨_, ⟨h.val, h.isLt, rfl⟩, hh⟩

theorem vacateHandsets_vacated (s : State) : HandsetsVacated s (vacateHandsets s) := by
  have h : (vacateHandsets s).handsets =
      { records := mapAll vacated s.handsets.records, votePassed := s.handsets.votePassed
        gen := s.handsets.gen + BitVec.ofNat 32 (s.handsets.records.toList.map (fun r => countedChanges r (vacated r))).sum } := by
    rw [vacateHandsets_eq, raiseIf_eq]; split <;> rfl
  rw [HandsetsVacated, h]
  exact ⟨fun i => mapAll_get _ _ _, rfl, rfl⟩

theorem Raised.vacateHandsets {s t : State} {r : Nat} {p : Nat → Prop} (h : Raised s t r p) :
    Raised s (vacateHandsets t) r (fun k => p k ∨ k = 12 ∧ ∃ i : Fin 16, (t.handsets.records[i]).state ≠ .absent) := by
  rw [vacateHandsets_eq]
  have hu : ∀ (u : State) (c : Bool), u.events = t.events → u.statusGen = t.statusGen →
      Raised s (raiseIf c .handsetChange u) r (fun k => p k ∨ k = 12 ∧ c = true) :=
    fun u c he hg => (h.congr he hg).signalledIf c .handsetChange (by decide)
  refine Raised.iff (hu _ _ ?_ ?_) fun k => ?_
  · rfl
  · rfl
  · rw [statesChange_vacate]

theorem clearQueue_queue (s : State) : (clearQueue s).queue = emptiedQueue s.queue := by
  unfold clearQueue
  split
  · rename_i h; simp [emptiedQueue, h]
    cases hq : s.queue; simp_all
  · rename_i h; simp [queueChanged_eq, signalled, emptiedQueue, h]

theorem Raised.clearQueue {s t : State} {r : Nat} {p : Nat → Prop} (h : Raised s t r p) :
    Raised s (clearQueue t) r (fun k => p k ∨ k = 14 ∧ t.queue.entries ≠ []) := by
  unfold Machine.clearQueue
  split
  · rename_i e; exact h.iff fun k => by simp [e]
  · rename_i e
    exact (Raised.queueChanged (t := { t with queue := { t.queue with entries := [] } }) (h.congr rfl rfl)).iff fun k => by simp [e]

end Sys2Proof.Machine
end

