-- ==== Sys2Proof/Laws/Lyrics.lean ====
section
/-! SUPPORT. The Strip Store, the display chain and the two band latches in the terms of the claims: each operation of
the model does what the claim's description of it says. -/

namespace Sys2Proof.Machine

/-! ### Fields -/

theorem Mem.field_one (m : Mem) (p : Nat) : m.field p 1 = (m.read p).toNat := by simp [Mem.field]

theorem Mem.field_two (m : Mem) (p : Nat) : m.field p 2 = word16 m p := by simp [Mem.field, word16]

theorem Mem.field_three (m : Mem) (p : Nat) : m.field p 3 = word24 m p := by
  simp only [Mem.field, word16, word24, Nat.add_assoc, Nat.reduceAdd, Nat.mul_zero, Nat.add_zero]; omega

theorem Mem.field_four (m : Mem) (p : Nat) : m.field p 4 = word32 m p := by
  simp only [Mem.field, word16, word24, word32, Nat.add_assoc, Nat.reduceAdd, Nat.mul_zero, Nat.add_zero]; omega

theorem StripBuf.lineNumber_eq (y : Lyrics) (b : Fin 4) : (y.strips[b]).lineNumber = stripLine y b :=
  Mem.field_two _ _

theorem StripBuf.lastLine_false (b : StripBuf) : b.lastLine = false ↔ b.bytes.read 6 = 0 := by simp [StripBuf.lastLine]

/-! ### The syllables of a line -/

/-- The j-th slot of a buffer's range, as the model reads it. -/
def Lyrics.slotOf (y : Lyrics) (k : Fin 4) (j : Nat) : Syllable := syllableAt y.timeline ((y.strips[k].firstSlot + j) % 512)

/-- What the model reads from a slot of a range, in the claims' terms. -/
theorem Lyrics.slotOf_fields (y : Lyrics) (k : Fin 4) (j : Nat) (hj : j < ((y.strips[k]).bytes.read 4).toNat) :
    (IsSyllable y k j ↔ (y.slotOf k j).valid = true ∧ (y.slotOf k j).line = (y.strips[k]).lineNumber) ∧
      (y.slotOf k j).start = slotStart y k j ∧ (y.slotOf k j).stop = word32 y.timeline (rangeSlot y k j + 8) ∧
      (y.slotOf k j).left = word16 y.timeline (rangeSlot y k j + 12) ∧
      (y.slotOf k j).right = word16 y.timeline (rangeSlot y k j + 14) := by
  have h : (word16 (y.strips[k]).bytes 2 % 512 + j) % 512 = (word16 (y.strips[k]).bytes 2 + j) % 512 := by omega
  simp only [Lyrics.slotOf, syllableAt, StripBuf.firstSlot, Mem.field_two, Mem.field_four, IsSyllable, slotStart, rangeSlot,
    stripLine, StripBuf.lineNumber, hj, true_and, h]
  simp

/-- The places in range order of a line's syllables. -/
def Lyrics.syllablePlaces (y : Lyrics) (k : Fin 4) : List Nat :=
  (List.range ((y.strips[k]).bytes.read 4).toNat).filter
    (fun j => (y.slotOf k j).valid && decide ((y.slotOf k j).line = (y.strips[k]).lineNumber))

theorem StripBuf.syllables_eq (y : Lyrics) (k : Fin 4) :
    (y.strips[k]).syllables y.timeline = (y.syllablePlaces k).map (y.slotOf k) := by
  unfold StripBuf.syllables StripBuf.range Lyrics.syllablePlaces
  simp only [StripBuf.syllableCount, Mem.field_one, List.map_map, List.filter_map]
  rfl

theorem Lyrics.mem_syllablePlaces (y : Lyrics) (k : Fin 4) (j : Nat) : j ∈ y.syllablePlaces k ↔ IsSyllable y k j := by
  simp only [Lyrics.syllablePlaces, List.mem_filter, List.mem_range, Bool.and_eq_true, decide_eq_true_eq]
  constructor
  · rintro ⟨h, h2⟩; exact (y.slotOf_fields k j h).1.2 h2
  · intro h; exact ⟨h.1, (y.slotOf_fields k j h.1).1.1 h⟩

theorem Lyrics.syllablePlaces_rise (y : Lyrics) (k : Fin 4) : (y.syllablePlaces k).Pairwise (· < ·) :=
  List.Pairwise.filter _ List.pairwise_lt_range

/-- R63: the model's line end is the line end of the claims. -/
theorem StripBuf.lineEnd_iff (y : Lyrics) (k : Fin 4) (e : Nat) : LineEnd y k e ↔ (y.strips[k]).lineEnd y.timeline = e := by
  unfold StripBuf.lineEnd LineEnd
  rw [StripBuf.syllables_eq, List.getLast?_map]
  cases h : (y.syllablePlaces k).getLast? with
  | none =>
    have none' : ∀ j, ¬ IsSyllable y k j := fun j hj => by
      have := (y.mem_syllablePlaces k j).2 hj
      rw [List.getLast?_eq_none_iff.1 h] at this
      simp at this
    simp only [Option.map_none]
    exact ⟨fun h => (h.2 none').symm, fun h => ⟨fun j hj => absurd hj (none' j), fun _ => h.symm⟩⟩
  | some j =>
    obtain ⟨l, hl⟩ := List.getLast?_eq_some_iff.1 h
    have hj : IsSyllable y k j := (y.mem_syllablePlaces k j).1 (by simp [hl])
    have last : ∀ i, j < i → ¬ IsSyllable y k i := by
      intro i hi hs
      have mem := (y.mem_syllablePlaces k i).2 hs
      have rise := y.syllablePlaces_rise k
      rw [hl, List.pairwise_append] at rise
      simp only [hl, List.mem_append, List.mem_singleton] at mem
      rcases mem with h1 | h1
      · have := rise.2.2 i h1 j (by simp); omega
      · omega
    simp only [Option.map_some, (y.slotOf_fields k j hj.1).2.2.1]
    constructor
    · intro h; exact (h.1 j hj last).symm
    · intro h
      refine ⟨fun i hi hm => ?_, fun h2 => absurd hj (h2 j)⟩
      have : i = j := by
        rcases Nat.lt_trichotomy i j with h1 | h1 | h1
        · exact absurd hj (hm j h1)
        · exact h1
        · exact absurd hi (last i h1)
      rw [this]; exact h.symm

/-! ### The completion check (R60) -/

theorem startsRise_iff (l : List Syllable) :
    startsRise l = true ↔ ∀ j x y, l[j]? = some x → l[j + 1]? = some y → x.start ≤ y.start := by
  induction l with
  | nil => simp [startsRise]
  | cons x l ih =>
    cases l with
    | nil => simp [startsRise]
    | cons y ys =>
      simp only [startsRise, Bool.and_eq_true, decide_eq_true_eq, ih]
      constructor
      · rintro ⟨h1, h2⟩ j a b ha hb
        cases j with
        | zero => simp at ha hb; subst ha hb; exact h1
        | succ j => exact h2 j a b (by simpa using ha) (by simpa using hb)
      · intro h
        exact ⟨h 0 x y rfl rfl, fun j a b ha hb => h (j + 1) a b (by simpa using ha) (by simpa using hb)⟩

theorem Lyrics.duplicated_false (y : Lyrics) (k : Fin 4) :
    y.duplicated k = false ↔
      ∀ b : Fin 4, b ≠ k → (y.strips[b]).state = .ready ∨ (y.strips[b]).state = .shown → stripLine y b ≠ stripLine y k := by
  simp [Lyrics.duplicated, StripBuf.carried, StripBuf.lineNumber, Mem.field_two, stripLine]

theorem namedPart_isSome (n : Nat) : (namedPart n).isSome = true ↔ n = 1 ∨ n = 2 ∨ n = 3 := by
  unfold namedPart
  repeat' split
  all_goals simp_all

/-- R60: the model's check is the six conditions. -/
theorem Lyrics.complete_iff (y : Lyrics) (k : Fin 4) : y.complete k = true ↔ StripPasses y k := by
  unfold Lyrics.complete StripPasses
  simp only [Bool.and_eq_true, decide_eq_true_eq, Bool.not_eq_true', StripBuf.partCode, StripBuf.syllableCount, Mem.field_one,
    StripBuf.range, startsRise_iff, List.all_eq_true, List.mem_map, List.mem_range, forall_exists_index, and_imp,
    y.duplicated_false, namedPart_isSome, StripBuf.lineNumber_eq]
  simp only [List.getElem?_map, Option.map_eq_some_iff, List.getElem?_eq_some_iff, List.length_range, List.getElem_range]
  constructor
  · rintro ⟨⟨⟨⟨⟨⟨a, b⟩, c⟩, d⟩, e⟩, f⟩, g⟩
    refine ⟨a, ⟨b, c⟩, d, fun j hj => ?_, fun j hj => ?_, g⟩
    · rw [(y.slotOf_fields k j hj).1, StripBuf.lineNumber_eq]
      exact e _ _ j hj rfl rfl
    · have := f j _ _ ⟨_, ⟨_, ⟨by omega, rfl⟩, rfl⟩, rfl⟩ ⟨_, ⟨_, ⟨hj, rfl⟩, rfl⟩, rfl⟩
      rw [← (y.slotOf_fields k j (by omega)).2.1, ← (y.slotOf_fields k (j + 1) hj).2.1]
      exact this
  · rintro ⟨a, ⟨b, c⟩, d, e, f, g⟩
    refine ⟨⟨⟨⟨⟨⟨a, b⟩, c⟩, d⟩, ?_⟩, ?_⟩, g⟩
    · rintro x n j hj rfl rfl
      have := (y.slotOf_fields k j hj).1.1 (e j hj)
      rwa [StripBuf.lineNumber_eq] at this
    · rintro j _ _ ⟨_, ⟨_, ⟨h1, rfl⟩, rfl⟩, rfl⟩ ⟨_, ⟨_, ⟨h2, rfl⟩, rfl⟩, rfl⟩
      have := f j h2
      rw [← (y.slotOf_fields k j (by omega)).2.1, ← (y.slotOf_fields k (j + 1) h2).2.1] at this
      exact this

/-! ### The display chain (R64 to R68) -/

theorem Lyrics.readyLine_some (y : Lyrics) (b : Fin 4) : y.readyLine y.nextLine = some b ↔ CarriesNext y b := by
  have ready : ∀ a : Fin 4, (decide ((y.strips[a]).state = .ready) && decide ((y.strips[a]).lineNumber = y.nextLine)) = true ↔
      (y.strips[a]).state = .ready ∧ stripLine y a = y.nextLine := by simp [StripBuf.lineNumber, Mem.field_two, stripLine]
  unfold Lyrics.readyLine CarriesNext
  rw [List.find?_eq_some_iff_getElem, ready]
  constructor
  · rintro ⟨h1, i, hi, h2, h3⟩
    refine ⟨h1, fun a ha h => ?_⟩
    simp only [List.getElem_finRange] at h2 h3
    have := h3 a.val (by subst h2; exact ha)
    simp only [Bool.not_eq_true'] at this
    exact absurd ((ready a).2 h) (Bool.eq_false_iff.1 this)
  · rintro ⟨h1, h2⟩
    refine ⟨h1, b.val, by simp, by simp, fun j hj => ?_⟩
    have := mt (ready ⟨j, by omega⟩).1 (h2 ⟨j, by omega⟩ hj)
    simp only [List.getElem_finRange, Bool.not_eq_true']
    exact Bool.eq_false_iff.2 this

theorem Lyrics.readyLine_none (y : Lyrics) : y.readyLine y.nextLine = none ↔ ∀ b, ¬ CarriesNext y b := by
  constructor
  · intro h b hb; rw [(y.readyLine_some b).2 hb] at h; cases h
  · intro h
    cases hh : y.readyLine y.nextLine with
    | none => rfl
    | some b => exact absurd ((y.readyLine_some b).1 hh) (h b)

theorem Lyrics.eligible_some (y : Lyrics) (t : Nat) (b : Fin 4) : y.eligible t = some b ↔ Qualifies y t b := by
  unfold Lyrics.eligible Qualifies
  cases h : y.readyLine y.nextLine with
  | none => simp [y.readyLine_none.1 h b]
  | some c =>
    have hc := (y.readyLine_some c).1 h
    have only : ∀ b, CarriesNext y b → b = c := fun b hb => by rw [(y.readyLine_some b).2 hb] at h; simpa using h
    simp only [StripBuf.showTime, Mem.field_four]
    constructor
    · intro h2
      split at h2
      · simp at h2; subst h2; exact ⟨hc, ‹_›⟩
      · cases h2
    · rintro ⟨h1, h2⟩
      rw [only b h1] at h2 ⊢
      rw [if_pos h2]

theorem Lyrics.eligible_none (y : Lyrics) (t : Nat) : y.eligible t = none ↔ ∀ b, ¬ Qualifies y t b := by
  constructor
  · intro h b hb; rw [(y.eligible_some t b).2 hb] at h; cases h
  · intro h
    cases hh : y.eligible t with
    | none => rfl
    | some b => exact absurd ((y.eligible_some t b).1 hh) (h b)

theorem Lyrics.closed_false (y : Lyrics) :
    y.closed = false ↔ ∀ b, y.chain.getLast? = some b → (y.strips[b]).bytes.read 6 = 0 := by
  unfold Lyrics.closed
  cases h : y.chain.getLast? <;> simp [StripBuf.lastLine]

/-- R65: one test of fill. -/
theorem Lyrics.fillOnce_step (y : Lyrics) (t : Nat) : FillStep t y (y.fillOnce t) := by
  unfold FillStep Lyrics.fillOnce
  constructor
  · intro b hf hq
    rw [if_pos ⟨hf.1, hf.2.1, y.closed_false.2 hf.2.2⟩, (y.eligible_some t b).2 hq]; rfl
  · intro h
    by_cases hc : y.chain.length < 2 ∧ y.scroll = none ∧ y.closed = false
    · rw [if_pos hc]
      rcases h with h | h
      · exact absurd ⟨hc.1, hc.2.1, y.closed_false.1 hc.2.2⟩ h
      · rw [(y.eligible_none t).2 h]
    · rw [if_neg hc]

/-- R66: when lead warning is due. -/
theorem Lyrics.warns_iff (y : Lyrics) (t lead : Nat) : y.warns t lead = true ↔ LeadDue t lead y := by
  unfold Lyrics.warns LeadDue
  constructor
  · intro h
    split at h
    · rename_i k l hc hs
      simp only [Bool.and_eq_true, decide_eq_true_eq, Bool.not_eq_true', Option.isNone_iff_eq_none] at h
      exact ⟨k, l, _, hc, hs, (StripBuf.lastLine_false _).1 h.1.1.1, y.readyLine_none.1 h.1.1.2,
        (StripBuf.lineEnd_iff y k _).2 rfl, h.1.2, h.2⟩
    · cases h
  · rintro ⟨k, l, e, hc, hs, h1, h2, h3, h4, h5⟩
    simp only [hc, hs, (StripBuf.lastLine_false _).2 h1, y.readyLine_none.2 h2, (StripBuf.lineEnd_iff y k e).1 h3]
    simp; exact ⟨by omega, h5⟩

theorem Lyrics.leadWarning_step (y : Lyrics) (t lead : Nat) : LeadStep t lead y (y.leadWarning t lead) := by
  unfold LeadStep Lyrics.leadWarning
  exact ⟨fun h => if_pos ((y.warns_iff t lead).2 h), fun h => if_neg (mt (y.warns_iff t lead).1 h)⟩

/-- R67: scroll start. -/
theorem Lyrics.scrollStart_step (y : Lyrics) (t : Nat) : ScrollStartStep t y (y.scrollStart t) := by
  unfold ScrollStartStep Lyrics.scrollStart
  constructor
  · intro k l e hc hs he hle
    simp only [hc, hs, (StripBuf.lineEnd_iff y k e).1 he, hle, if_true]
    constructor
    · intro h
      have : (y.strips[l]).lastLine = true := by
        by_contra hh; exact h ((StripBuf.lastLine_false _).1 (by simpa using hh))
      simp only [this, if_true]
    · intro h
      simp only [(StripBuf.lastLine_false _).2 h]
      exact ⟨fun b hb => by rw [(y.eligible_some t b).2 hb]; rfl, fun hb => by rw [(y.eligible_none t).2 hb]; rfl⟩
  · intro h
    split
    · rename_i k l hc hs
      have := h k l _ hc hs ((StripBuf.lineEnd_iff y k _).2 rfl)
      exact if_neg (by omega)
    · rfl

/-- R68: scroll completion. -/
theorem Lyrics.scrollCompletion_step (y : Lyrics) (t duration : Nat) :
    ScrollEndStep t duration y (y.scrollCompletion t duration) := by
  unfold ScrollEndStep Lyrics.scrollCompletion
  constructor
  · intro r k rest hs hd hc
    simp only [hs, hd, if_true, hc]; rfl
  · intro h
    cases hs : y.scroll with
    | none => rfl
    | some r => have := h r hs; exact if_neg (by omega)

/-- R64: chain sequencing is its four steps, and LINE_LATE comes with the lead warning. -/
theorem Lyrics.sequence_steps (y : Lyrics) (t lead duration : Nat) :
    Sequenced t lead duration y (y.sequence t lead duration) ((y.fill t).warns t lead = true) :=
  ⟨_, _, _, _, y.fillOnce_step t, Lyrics.fillOnce_step _ t, Lyrics.leadWarning_step _ t lead, Lyrics.scrollStart_step _ t,
    Lyrics.scrollCompletion_step _ t duration, Lyrics.warns_iff _ t lead⟩

/-! ### The wipe (R80, R81) -/

/-- The last sung syllable of the model is the last in range order whose start has come. -/
theorem Lyrics.sungSyllable_eq (y : Lyrics) (k : Fin 4) (t j : Nat) (hj : IsSyllable y k j) (hjt : slotStart y k j ≤ t)
    (last : ∀ i, j < i → IsSyllable y k i → t < slotStart y k i) :
    sungSyllable t ((y.syllablePlaces k).map (y.slotOf k)) = some (y.slotOf k j) := by
  have rise := y.syllablePlaces_rise k
  have start : ∀ i, IsSyllable y k i → (y.slotOf k i).start = slotStart y k i := fun i hi => (y.slotOf_fields k i hi.1).2.1
  obtain ⟨l1, l2, hl⟩ := List.append_of_mem ((y.mem_syllablePlaces k j).2 hj)
  have found : ((y.syllablePlaces k).filter ((fun y => decide (y.start ≤ t)) ∘ y.slotOf k)).getLast? = some j := by
    rw [List.getLast?_eq_some_iff]
    refine ⟨l1.filter ((fun y => decide (y.start ≤ t)) ∘ y.slotOf k), ?_⟩
    rw [hl, List.filter_append, List.filter_cons, if_pos (by simp [start j hj, hjt])]
    congr 2
    rw [List.filter_eq_nil_iff]
    intro i hi
    rw [hl, List.pairwise_append] at rise
    have his : IsSyllable y k i := (y.mem_syllablePlaces k i).1 (by simp [hl, hi])
    have := last i ((List.pairwise_cons.1 rise.2.1).1 i hi) his
    simp [start i his]; exact this
  unfold sungSyllable
  rw [List.filter_map, List.getLast?_map, found]; rfl

/-- The first of a line's syllables is the one that none precedes. -/
theorem Lyrics.syllablePlaces_head (y : Lyrics) (k : Fin 4) (first : Nat) (hf : IsSyllable y k first)
    (hmin : ∀ i, i < first → ¬ IsSyllable y k i) : ∃ l, y.syllablePlaces k = first :: l := by
  have mem := (y.mem_syllablePlaces k first).2 hf
  have rise := y.syllablePlaces_rise k
  cases h : y.syllablePlaces k with
  | nil => rw [h] at mem; simp at mem
  | cons a l =>
    rw [h] at mem rise
    rcases List.mem_cons.1 mem with e | e
    · exact ⟨l, by rw [e]⟩
    · exact absurd ((y.mem_syllablePlaces k a).1 (by simp [h])) (hmin a ((List.pairwise_cons.1 rise).1 first e))

/-- R80, R81: the model's wipe. -/
theorem wipeOf_ruled (y : Lyrics) (k : Fin 4) (t : Nat) : WipeAsRuled y k t (wipeOf t ((y.strips[k]).syllables y.timeline)) := by
  unfold WipeAsRuled
  rw [StripBuf.syllables_eq]
  dsimp only
  constructor
  · intro h
    have : y.syllablePlaces k = [] := by
      rw [List.eq_nil_iff_forall_not_mem]; intro j hj; exact h j ((y.mem_syllablePlaces k j).1 hj)
    rw [this]; rfl
  · intro first hf hmin
    obtain ⟨tl, htl⟩ := y.syllablePlaces_head k first hf hmin
    obtain ⟨-, s1, -, s2, -⟩ := y.slotOf_fields k first hf.1
    constructor
    · intro hlt
      rw [htl]; simp only [List.map_cons, wipeOf, s1, hlt, if_true, s2]
    · intro hge j hj hjt last
      have sung := y.sungSyllable_eq k t j hj hjt last
      have hw : wipeOf t ((y.syllablePlaces k).map (y.slotOf k)) = wipeIn t (y.slotOf k j) := by
        rw [htl, List.map_cons] at sung ⊢
        simp only [wipeOf, s1, Nat.not_lt.2 hge, if_false, sung]
      obtain ⟨-, a, b, c, d⟩ := y.slotOf_fields k j hj.1
      simp only [hw, wipeIn, a, b, c, d]
      exact ⟨fun h => if_pos h, fun h h2 => by rw [if_neg (Nat.not_lt.2 h), if_pos h2],
        fun h h2 => by rw [if_neg (Nat.not_lt.2 h), if_neg (Nat.not_le.2 h2)]⟩

/-! ### The latches (R79, R82, R85) -/

theorem SongClock.latchTime_eq (c : SongClock) (h : c.state ≠ .idle) : c.latchTime = latchTimeRuled c := by
  unfold SongClock.latchTime latchTimeRuled
  cases hs : c.state <;> simp_all

/-- The lyric latch for the chain that sequencing leaves. -/
theorem makeLyricLatch_ruled (s : State) (y : Lyrics) (h : s.clock.state ≠ .idle) :
    LyricLatched s y (makeLyricLatch s.anchor.bytes s.clock.latchTime y) := by
  unfold LyricLatched
  dsimp only
  rw [← s.clock.latchTime_eq h]
  refine ⟨rfl, rfl, rfl, rfl, rfl, rfl, rfl, rfl, rfl, ?_, ?_, ?_, ?_⟩
  · simp [makeLyricLatch, shownLine, Function.comp_def]
  · intro x hx
    simp only [makeLyricLatch, List.mem_map] at hx
    obtain ⟨b, -, rfl⟩ := hx
    refine ⟨wipeOf_ruled y b _, ?_⟩
    simp only [shownLine, StripBuf.part, StripBuf.partCode, Mem.field_one, namedPart]
    refine ⟨?_, ?_, ?_⟩ <;> intro e <;> simp at e <;> simp [e]
  · intro hs; simp [makeLyricLatch, hs, scrollOffset]
  · intro r hr
    simp only [makeLyricLatch, hr, scrollOffset, true_and]
    refine ⟨fun h0 => by simp [h0], fun h0 hle => ?_⟩
    rw [if_neg h0]
    congr 1
    have : (lineHeight s.anchor.bytes : Int) * ((s.clock.latchTime : Int) - (r.start : Int)) / (scrollDuration s.anchor.bytes : Int) =
        ((lineHeight s.anchor.bytes * (s.clock.latchTime - r.start) / scrollDuration s.anchor.bytes : Nat) : Int) := by
      push_cast [Nat.cast_sub hle]; rfl
    rw [this]; rfl

/-! ### The chain cleared (R70, R71) -/

theorem hide_ruled (b : StripBuf) : b.hide = { b with state := (if b.state = .shown then .free else b.state) } := by
  unfold StripBuf.hide; split <;> simp_all
theorem clearChain_cleared (n : Nat) (s : State) : ChainCleared s.lyrics (clearChain n s).lyrics n := by
  refine ⟨rfl, fun b => ?_⟩
  have : (clearChain n s).lyrics.strips[b] = (s.lyrics.strips[b]).hide := mapAll_get _ _ _
  rw [this, hide_ruled]

/-! ### What writes no byte of the Strip Store (R64, R76) -/

/-- The same timeline, and the same bytes in every strip buffer. -/
def Lyrics.SameBytes (y z : Lyrics) : Prop :=
  z.timeline = y.timeline ∧ ∀ b : Fin 4, (z.strips[b]).bytes = (y.strips[b]).bytes

theorem Lyrics.SameBytes.refl (y : Lyrics) : y.SameBytes y := ⟨rfl, fun _ => rfl⟩
theorem Lyrics.SameBytes.trans {x y z : Lyrics} (h : x.SameBytes y) (g : y.SameBytes z) : x.SameBytes z :=
  ⟨g.1.trans h.1, fun b => (g.2 b).trans (h.2 b)⟩

theorem Lyrics.setState_bytes (y : Lyrics) (k : Fin 4) (st : StripState) : y.SameBytes (y.setState k st) := by
  refine ⟨rfl, fun b => ?_⟩
  simp only [Lyrics.setState]
  by_cases h : b = k
  · subst h; rw [setAt_self]
  · rw [setAt_other _ _ _ _ h]

theorem Lyrics.fillOnce_bytes (y : Lyrics) (t : Nat) : y.SameBytes (y.fillOnce t) := by
  unfold Lyrics.fillOnce
  repeat' split
  exacts [y.setState_bytes _ _, .refl y, .refl y]

theorem Lyrics.leadWarning_bytes (y : Lyrics) (t lead : Nat) : y.SameBytes (y.leadWarning t lead) := by
  unfold Lyrics.leadWarning; split <;> exact .refl y

theorem Lyrics.scrollStart_bytes (y : Lyrics) (t : Nat) : y.SameBytes (y.scrollStart t) := by
  unfold Lyrics.scrollStart
  repeat' split
  exacts [.refl y, y.setState_bytes _ _, .refl y, .refl y, .refl y]

theorem Lyrics.scrollCompletion_bytes (y : Lyrics) (t d : Nat) : y.SameBytes (y.scrollCompletion t d) := by
  unfold Lyrics.scrollCompletion
  repeat' split
  exacts [.refl y, .refl y, y.setState_bytes _ _, .refl y]

/-- Chain sequencing writes no byte of the timeline or of a strip. -/
theorem Lyrics.sequence_bytes (y : Lyrics) (t lead duration : Nat) : y.SameBytes (y.sequence t lead duration) :=
  ((((y.fillOnce_bytes t).trans (Lyrics.fillOnce_bytes _ t)).trans (Lyrics.leadWarning_bytes _ t lead)).trans
    (Lyrics.scrollStart_bytes _ t)).trans (Lyrics.scrollCompletion_bytes _ t duration)

/-- A SCANOUT beat writes no byte of the timeline or of a strip. -/
theorem scanoutState_bytes (f : Nat) (s : State) : s.lyrics.SameBytes (scanoutState f s).lyrics := by
  have guide : ∀ (b : Bool) (u : State), (enterGuide b u).lyrics = u.lyrics := fun b u => by
    unfold enterGuide; split <;> rfl
  have lyric : ∀ b : Bool, s.lyrics.SameBytes (enterLyric b s).lyrics := fun b => by
    unfold enterLyric; split
    · have : (takeLyricLatch s).lyrics = s.lyrics.sequence s.clock.latchTime (lineLead s.anchor.bytes) (scrollDuration s.anchor.bytes) := by
        simp only [takeLyricLatch, sequenceChain, raiseIf]; split <;> simp
      rw [this]; exact s.lyrics.sequence_bytes _ _ _
    · exact .refl _
  have : (scanoutState f s).lyrics = (enterLyric (lyricBeat s.anchor.bytes f) s).lyrics := guide _ _
  rw [this]; exact lyric _

/-- An acceptance writes no byte of the timeline or of a strip. -/
theorem acceptBeats_bytes (s0 : State) (r : BusRequest) (n : Nat) :
    ∀ (k : Nat) (s : State), s.lyrics.SameBytes (acceptBeats s0 r k n s).2.lyrics := by
  induction n with
  | zero => exact fun _ _ => .refl _
  | succ n ih =>
    intro k s
    refine Lyrics.SameBytes.trans ?_ (ih (k + 1) (acceptBeat s0 r (beatAddr r k) s).2)
    unfold acceptBeat readBeat
    repeat' split
    all_goals first
      | exact .refl _
      | exact scanoutState_bytes _ s
      | (simp only [blockBeat_frame, playbackBeat_frame]; exact .refl _)

end Sys2Proof.Machine
end

