-- ==== Sys2Proof/Laws/Packets.lean ====
section
/-! SUPPORT. What the end of a packet leaves: the handset's record, the handset generation and the events (R135, R139, R142);
and several presence expiries at once. -/

namespace Sys2Proof.Machine

/-- The state that follows the counter keeps the other counted fields. -/
theorem follow_keeps (r : Handset) (e : Nat) (now : Count32) : (r.follow e now).lastSequence = r.lastSequence ∧
    (r.follow e now).lowBattery = r.lowBattery ∧ (r.follow e now).vote = r.vote := by
  unfold Handset.follow; repeat' split
  all_goals exact ⟨rfl, rfl, rfl⟩

/-- Changes of different fields add up. -/
theorem countedChanges_trans (r x y : Handset) (h1 : x.state = r.state) (h2 : x.errors = r.errors) (h3 : y.lastSequence = x.lastSequence)
    (h4 : x.lowBattery = r.lowBattery) (h5 : x.vote = r.vote) :
    countedChanges r x + countedChanges x y = countedChanges r y := by
  simp only [countedChanges, h1, h2, h3, h4, h5, if_true]; ring

/-- A reply written over a stored sequence: the record and the generation (R142). -/
theorem writeReply_record (h : Fin 16) (seq q : Byte) (a : Answer) (s : State) :
    ∃ (y : Reply) (n : Byte),
      let x : Handset := { s.handsets.records[h] with lastSequence := some seq, reply := y, replyCount := n }
      let v := writeReply h q a (putHandset h { s.handsets.records[h] with lastSequence := some seq } s)
      v.handsets.records[h] = x ∧ v.timebase = s.timebase ∧ v.handsets.votePassed = s.handsets.votePassed ∧
        v.handsets.gen = s.handsets.gen + BitVec.ofNat 32 (1 + countedChanges s.handsets.records[h] x) := by
  generalize hu : putHandset h { s.handsets.records[h] with lastSequence := some seq } s = u
  have hur : u.handsets.records[h] = { s.handsets.records[h] with lastSequence := some seq } := by
    rw [← hu, putHandset_record, setAt_self]
  refine ⟨{ sequence := q, outcome := a.outcome, tag := a.tag, position := a.position, pendingCount := u.queue.pendingCount h },
    (s.handsets.records[h]).replyCount + 1, ?_, ?_, ?_, ?_⟩
  · rw [writeReply, raise_eq]
    simp only [signalled, bumpHandsets, putHandset_record, setAt_self, hur]
  · rw [← hu]; simp [putHandset, bumpHandsets]
  · rw [writeReply, raise_eq, ← hu]; rfl
  · rw [writeReply_gen, ← hu, Nat.add_comm 1, BitVec.ofNat_add, ← BitVec.add_assoc]; rfl

/-- The handset's record and the generation after a reply and the change of counter that end a packet (R139, R142). -/
theorem concludePacket_record (h : Fin 16) (seq : Byte) (a : Answer) (s : State) :
    ∃ (y : Reply) (n : Byte),
    (concludePacket h seq a s).handsets.records[h] =
      Handset.follow { s.handsets.records[h] with lastSequence := some seq, reply := y, replyCount := n }
        (errorsAfter a.outcome (s.handsets.records[h]).errors) s.timebase ∧
    (concludePacket h seq a s).handsets.gen = s.handsets.gen +
      BitVec.ofNat 32 (1 + countedChanges s.handsets.records[h] (concludePacket h seq a s).handsets.records[h]) := by
  obtain ⟨y, n, hr, ht, -, hg⟩ := writeReply_record h seq seq a s
  refine ⟨y, n, ?_⟩
  unfold concludePacket
  dsimp only
  rw [changeHandset_gen, changeHandset_record, setAt_self, hr, ht, hg]
  refine ⟨rfl, ?_⟩
  generalize s.handsets.records[h] = r
  generalize hx : ({ r with lastSequence := some seq, reply := y, replyCount := n } : Handset) = x
  have hk := follow_keeps x (errorsAfter a.outcome x.errors) s.timebase
  rw [BitVec.add_assoc, ← BitVec.ofNat_add, Nat.add_assoc,
    countedChanges_trans r x _ (by rw [← hx]) (by rw [← hx]) hk.1 (by rw [← hx]) (by rw [← hx])]

/-- The events of the end of a packet: REPLY_READY, HANDSET_CHANGE with a change of state, SKIP_VOTE_PASSED with a pass. -/
theorem Raised.concludePacket {s t : State} {r : Nat} {p : Nat → Prop} (hp : Raised s t r p) (h : Fin 16) (seq : Byte) (a : Answer) :
    Raised s (concludePacket h seq a t) r (fun k => p k ∨ k = 13 ∨
      k = 12 ∧ (t.handsets.records[h]).state ≠ ((concludePacket h seq a t).handsets.records[h]).state ∨
      k = 11 ∧ t.handsets.votePassed = false ∧ (concludePacket h seq a t).handsets.votePassed = true) := by
  obtain ⟨y, n, hr, -, hv, -⟩ := writeReply_record h seq seq a t
  have hR := (hp.putHandset h { t.handsets.records[h] with lastSequence := some seq }).writeReply h seq a
  unfold Machine.concludePacket
  dsimp only
  refine (hR.changeHandset h _).iff fun k => ?_
  rw [changeHandset_record, setAt_self, hr, hv, or_assoc]

theorem concludePacket_keeps (h : Fin 16) (seq : Byte) (a : Answer) (s : State) (hv : s.handsets.votePassed = true) :
    (concludePacket h seq a s).handsets.votePassed = true := by
  refine changeHandset_keeps _ _ _ ?_
  rw [writeReply, raise_eq]; exact hv

/-- The events of step 4 and of steps 7 and 8 together. -/
theorem events_logic (P A B K11 K12 K13 : Prop) (v0 v1 v2 : Bool) (h1 : v0 = true → v1 = true) (h2 : v1 = true → v2 = true) :
    (((P ∨ K12 ∧ A ∨ K11 ∧ v0 = false ∧ v1 = true) ∨ K13 ∨ K12 ∧ B ∨ K11 ∧ v1 = false ∧ v2 = true) ↔
      P ∨ K13 ∨ K12 ∧ (A ∨ B) ∨ K11 ∧ v0 = false ∧ v2 = true) := by
  cases v0 <;> cases v1 <;> cases v2 <;> simp at h1 h2 <;> simp <;> tauto

/-- What the end of a packet of a handset that is not BARRED leaves, from the state `s` before step 4: `s2` stands before
step 8's end, and `p2` names the events of the processing (R135, R142). -/
theorem packet_counts (head : PacketHead) (s s2 : State) (p2 : Nat → Prop) (a : Answer) (v b : Bool) (r : Handset)
    (hnb : r.state ≠ .barred)
    (hrec : s2.handsets.records[head.handset] = { r.heard s.timebase with vote := v, lowBattery := b })
    (hgen : s2.handsets.gen = s.handsets.gen + BitVec.ofNat 32 ((if r.state = .absent then 1 else 0) +
      (if r.lowBattery = b then 0 else 1) + (if r.vote = v then 0 else 1)))
    (hkeep : s.handsets.votePassed = true → s2.handsets.votePassed = true)
    (hR : Raised s s2 0 (fun k => p2 k ∨ k = 12 ∧ r.state = .absent ∨
      k = 11 ∧ s.handsets.votePassed = false ∧ s2.handsets.votePassed = true)) :
    let t := concludePacket head.handset head.sequence a s2
    let q := t.handsets.records[head.handset]
    t.handsets.gen = s.handsets.gen +
        BitVec.ofNat 32 (1 + (if r.state = .absent then 1 else 0) + countedChanges { r with state := r.arrived } q) ∧
      Raised s t 0 (fun n => p2 n ∨ n = 13 ∨ n = 12 ∧ (r.state = .absent ∨ q.state ≠ r.arrived) ∨
        n = 11 ∧ s.handsets.votePassed = false ∧ t.handsets.votePassed = true) := by
  intro t q
  obtain ⟨y, n, hq, hg⟩ := concludePacket_record head.handset head.sequence a s2
  have hst : (r.heard s.timebase).state = r.arrived := by
    cases h : r.state <;> simp_all [Handset.heard, Handset.arrived]
  have hh : (r.heard s.timebase).errors = r.errors ∧ (r.heard s.timebase).lastSequence = r.lastSequence := by
    unfold Handset.heard; split <;> simp
  have hk := follow_keeps { s2.handsets.records[head.handset] with lastSequence := some head.sequence, reply := y, replyCount := n }
    (errorsAfter a.outcome (s2.handsets.records[head.handset]).errors) s2.timebase
  rw [← hq, hrec] at hk
  constructor
  · rw [show t.handsets.gen = _ from hg, hgen, BitVec.add_assoc, ← BitVec.ofNat_add, hrec]
    congr 2
    change _ + (1 + countedChanges _ q) = 1 + _ + countedChanges _ q
    have hlb : q.lowBattery = b := hk.2.1
    have hvt : q.vote = v := hk.2.2
    simp only [countedChanges, hst, hh.1, hh.2, hlb, hvt, if_true]
    ring
  · refine (hR.concludePacket head.handset head.sequence a).iff fun k => ?_
    rw [hrec, hst, ne_comm]
    exact events_logic _ _ _ _ _ _ _ _ _ hkeep (concludePacket_keeps _ _ _ _)

/-! ### Presence expiries (R16, R138) -/

/-- An expiry of one handset's timer leaves another's as it was. -/
theorem presenceDue_other (s : State) (h k : Fin 16) (hk : k ≠ h) : presenceDue (expirePresence h s) k = presenceDue s k := by
  unfold expirePresence
  split
  · have : (changeHandset h (s.handsets.records[h]).lapse s).handsets.records[k] = s.handsets.records[k] := by
      rw [changeHandset_record, setAt_other _ _ _ _ hk]
    simp only [presenceDue, this]; simp
  · rfl

/-- The presence expiries of a list of handsets: the flag kept, one count each, HANDSET_CHANGE and the skip test's event. -/
theorem expirePresence_fold (l : List (Fin 16)) (hn : l.Nodup) (s t : State) (r : Nat) (p : Nat → Prop)
    (h : Raised s t r p) :
    let u := l.foldl (fun s h => expirePresence h s) t
    (t.handsets.votePassed = true → u.handsets.votePassed = true) ∧
    u.handsets.gen = t.handsets.gen + BitVec.ofNat 32 (l.countP (fun h => presenceDue t h)) ∧
    Raised s u r (fun n => p n ∨ n = 12 ∧ (∃ h ∈ l, presenceDue t h = true) ∨
      n = 11 ∧ t.handsets.votePassed = false ∧ u.handsets.votePassed = true) := by
  induction l generalizing t p with
  | nil =>
    refine ⟨id, by simp, h.iff fun n => ?_⟩
    simp only [List.foldl_nil]
    cases t.handsets.votePassed <;> simp
  | cons a l ih =>
    have hd : ∀ k ∈ l, presenceDue (expirePresence a t) k = presenceDue t k := fun k hk =>
      presenceDue_other _ _ _ (fun e => (List.nodup_cons.mp hn).1 (e ▸ hk))
    have hex : (∃ h ∈ l, presenceDue (expirePresence a t) h = true) ↔ ∃ h ∈ l, presenceDue t h = true := by
      constructor
      · rintro ⟨k, hk, e⟩; exact ⟨k, hk, by rw [← hd k hk]; exact e⟩
      · rintro ⟨k, hk, e⟩; exact ⟨k, hk, by rw [hd k hk]; exact e⟩
    have hcnt : l.countP (fun h => presenceDue (expirePresence a t) h) = l.countP (fun h => presenceDue t h) :=
      List.countP_congr fun k hk => by rw [hd k hk]
    by_cases hda : presenceDue t a = true
    · have he : expirePresence a t = changeHandset a (t.handsets.records[a]).lapse t := by rw [expirePresence, if_pos hda]
      have hst : (t.handsets.records[a]).state ≠ .absent := by
        intro e
        have hp : (t.handsets.records[a]).state.present = true := by
          rw [presenceDue, Bool.and_eq_true] at hda; exact hda.1
        rw [e] at hp; exact absurd hp (by decide)
      have hg : countedChanges t.handsets.records[a] (t.handsets.records[a]).lapse = 1 := by
        generalize t.handsets.records[a] = x at hst
        simp [countedChanges, Handset.lapse, hst]
      have h1 := h.changeHandset a (t.handsets.records[a]).lapse
      rw [← he] at h1
      obtain ⟨i1, i2, i3⟩ := ih (List.nodup_cons.mp hn).2 (expirePresence a t) _ h1
      have hk : t.handsets.votePassed = true → (expirePresence a t).handsets.votePassed = true := by
        rw [he]; exact changeHandset_keeps _ _ _
      refine ⟨fun x => i1 (hk x), ?_, ?_⟩
      · rw [List.foldl_cons, i2, hcnt, he, changeHandset_gen, hg, List.countP_cons_of_pos hda, Nat.add_comm,
          BitVec.ofNat_add, BitVec.add_assoc]
      · refine i3.iff fun n => ?_
        rw [hex, List.foldl_cons]
        have : (t.handsets.records[a]).state ≠ (t.handsets.records[a]).lapse.state := hst
        simp only [this, List.mem_cons, exists_eq_or_imp, hda, true_or, and_true, ne_eq, not_false_eq_true]
        generalize (List.foldl (fun s h => expirePresence h s) (expirePresence a t) l).handsets.votePassed = v2 at *
        generalize (expirePresence a t).handsets.votePassed = v1 at *
        generalize t.handsets.votePassed = v0 at *
        cases v0 <;> cases v1 <;> cases v2 <;> simp at hk i1 <;> simp <;> tauto
    · have he : expirePresence a t = t := by rw [expirePresence, if_neg hda]
      obtain ⟨i1, i2, i3⟩ := ih (List.nodup_cons.mp hn).2 t _ h
      refine ⟨by rw [List.foldl_cons, he]; exact i1, by rw [List.foldl_cons, he, i2, List.countP_cons_of_neg hda], ?_⟩
      rw [List.foldl_cons, he]
      refine i3.iff fun n => ?_
      simp [hda]

end Sys2Proof.Machine
end

