-- ==== Sys2Proof/Laws/Pitch.lean ====
section
/-! SUPPORT. The difference function, the picked lag, the refined lag and the pitch index in the terms of the claims. -/

namespace Sys2Proof.Machine

/-! ### Sums over samples (R102, R104) -/

/-- The first n of a list with its default beyond the end, by index. -/
theorem take_eq_map_getD {α : Type} (l : List α) (d : α) (k n : Nat) (h : k + n ≤ l.length) :
    (l.drop k).take n = (List.range n).map (fun i => l.getD (i + k) d) := by
  apply List.ext_getElem
  · simp; omega
  · intro i h1 h2
    simp only [List.length_map, List.length_range] at h2
    have hi : i + k < l.length := by omega
    simp [List.getD_eq_getElem?_getD, hi, Nat.add_comm k i]

/-- A signed sample by its index. -/
theorem signedSamples_getD (x : List (BitVec 16)) (i : Nat) : (signedSamples x).getD i 0 = sampleRuled x i := by
  simp only [signedSamples, sampleRuled, List.getD_eq_getElem?_getD, List.getElem?_map]
  cases x[i]? <;> simp

/-- The 256 samples from a lag on. -/
theorem signedSamples_window (x : List (BitVec 16)) (k : Nat) (h : k + 256 ≤ x.length) :
    ((signedSamples x).drop k).take 256 = (List.range 256).map (fun i => sampleRuled x (i + k)) := by
  rw [take_eq_map_getD (signedSamples x) 0 k 256 (by simpa [signedSamples] using h)]
  simp only [signedSamples_getD]

theorem differenceAt_ruled (x : List (BitVec 16)) (lag : Nat) (h : lag + 256 ≤ x.length) :
    differenceAt (signedSamples x) lag = differenceRuled x lag := by
  have h0 := signedSamples_window x 0 (by omega)
  have h1 := signedSamples_window x lag h
  rw [List.drop_zero] at h0
  have hz : ∀ (a b : List Int), a.length ≤ 256 →
      List.zipWith (fun p q : Int => (p - q).natAbs) a b = List.zipWith (fun p q : Int => (p - q).natAbs) a (b.take 256) := by
    intro a b ha
    apply List.ext_getElem
    · simp; omega
    · intro i _ _; simp
  rw [differenceAt, hz _ _ (by simp), h0, h1, differenceRuled, List.zipWith_map, List.zipWith_self]
  rfl

theorem sum_map_map (l : List Nat) (f g : Nat → Nat) :
    (l.map f).sum + (l.map g).sum = (l.map fun i => f i + g i).sum := by
  induction l with
  | nil => rfl
  | cons a l ih => simp only [List.map_cons, List.sum_cons]; omega

theorem noiseBound_ruled (x : List (BitVec 16)) (lag : Nat) (h : lag + 256 ≤ x.length) :
    noiseBound (signedSamples x) lag = boundRuled x lag := by
  have h0 := signedSamples_window x 0 (by omega)
  rw [List.drop_zero] at h0
  rw [noiseBound, h0, signedSamples_window x lag h, magnitudeSum, magnitudeSum, List.map_map, List.map_map, sum_map_map, boundRuled]
  rfl

/-! ### The picked lag (R103) -/

theorem tableAt_ruled (x : List (BitVec 16)) (lag : Nat) (h : x.length = 512) (h1 : 15 ≤ lag) (h2 : lag ≤ 249) :
    tableAt (differenceTable (signedSamples x)) lag = differenceRuled x lag := by
  have hl : lag - 15 < 235 := by omega
  have he : lag - 15 + 15 = lag := by omega
  simp only [tableAt, differenceTable, List.getD_eq_getElem?_getD, List.getElem?_map, List.getElem?_range hl, Option.map_some,
    Option.getD_some, he]
  exact differenceAt_ruled x lag (by omega)

theorem foldl_min_le (l : List Nat) (m c : Nat) : c ≤ l.foldl min m ↔ c ≤ m ∧ ∀ a ∈ l, c ≤ a := by
  induction l generalizing m with
  | nil => simp
  | cons a l ih => simp only [List.foldl_cons, ih, List.mem_cons, forall_eq_or_imp, Nat.le_min, and_assoc]

theorem foldl_min_mem (l : List Nat) (m : Nat) : l.foldl min m = m ∨ l.foldl min m ∈ l := by
  induction l generalizing m with
  | nil => simp
  | cons a l ih =>
    simp only [List.foldl_cons, List.mem_cons]
    rcases ih (min m a) with h | h
    · rw [h]; omega
    · exact .inr (.inr h)

theorem mem_candidateLags (k : Nat) : k ∈ candidateLags ↔ 16 ≤ k ∧ k ≤ 248 := by
  simp only [candidateLags, List.mem_map, List.mem_range]
  exact ⟨fun ⟨a, h, e⟩ => by omega, fun h => ⟨k - 16, by omega, by omega⟩⟩

/-- A bound on the least difference is a bound on every candidate's. -/
theorem le_leastDifference (d : List Nat) (c : Nat) :
    8 * c ≤ 9 * leastDifference d ↔ ∀ k, 16 ≤ k → k ≤ 248 → 8 * c ≤ 9 * tableAt d k := by
  have hle := (foldl_min_le (candidateLags.map (tableAt d)) (tableAt d 16) (leastDifference d)).mp (Nat.le_refl _)
  constructor
  · intro h k h1 h2
    have := hle.2 (tableAt d k) (List.mem_map_of_mem ((mem_candidateLags k).mpr ⟨h1, h2⟩))
    omega
  · intro h
    rcases foldl_min_mem (candidateLags.map (tableAt d)) (tableAt d 16) with e | e
    · have := h 16 (by omega) (by omega)
      simp only [leastDifference, e]; exact this
    · obtain ⟨k, hk, e⟩ := List.mem_map.mp e
      have hk := (mem_candidateLags k).mp hk
      have := h k hk.1 hk.2
      simp only [leastDifference, ← e]; exact this

theorem lagFits_ruled (x : List (BitVec 16)) (lag : Nat) (h : x.length = 512) (h1 : 16 ≤ lag) (h2 : lag ≤ 248) :
    lagFits (differenceTable (signedSamples x)) lag = true ↔ LagFits x lag := by
  have t := fun k a b => tableAt_ruled x k h a b
  simp only [lagFits, Bool.and_eq_true, decide_eq_true_eq, le_leastDifference, LagFits, and_assoc]
  rw [t lag (by omega) (by omega), t (lag - 1) (by omega) (by omega), t (lag + 1) (by omega) (by omega)]
  constructor
  · rintro ⟨a, b, c⟩
    exact ⟨h1, h2, a, b, fun k p q => by rw [← t k (by omega) (by omega)]; exact c k p q⟩
  · rintro ⟨-, -, a, b, c⟩
    exact ⟨a, b, fun k p q => by rw [t k (by omega) (by omega)]; exact c k p q⟩

theorem pickLag_none (x : List (BitVec 16)) (h : x.length = 512) :
    pickLag (differenceTable (signedSamples x)) = none ↔ ∀ k, ¬ LagFits x k := by
  simp only [pickLag, List.find?_eq_none, mem_candidateLags]
  constructor
  · intro hn k hk
    exact hn k hk.1 ((lagFits_ruled x k h hk.1.1 hk.1.2).mpr hk)
  · intro hn k hk hf
    exact hn k ((lagFits_ruled x k h hk.1 hk.2).mp hf)

/-- The lag that the search finds is the picked lag. -/
theorem pickLag_picked (x : List (BitVec 16)) (lag : Nat) (h : x.length = 512)
    (hp : pickLag (differenceTable (signedSamples x)) = some lag) : PickedLag x lag := by
  obtain ⟨hf, n, hn, he, hb⟩ := List.find?_eq_some_iff_getElem.mp hp
  have hlen : n < 233 := by simpa [candidateLags] using hn
  have he : n + 16 = lag := by simpa [candidateLags] using he
  refine ⟨(lagFits_ruled x lag h (by omega) (by omega)).mp hf, fun k hk hfit => ?_⟩
  have hk16 := hfit.1
  have := hb (k - 16) (by omega)
  have hg : candidateLags[k - 16]'(by simp [candidateLags]; omega) = k := by simp [candidateLags]; omega
  rw [hg, (lagFits_ruled x k h hk16.1 hk16.2).mpr hfit] at this
  simp at this

/-- One lag at most is picked. -/
theorem PickedLag.unique {x : List (BitVec 16)} {k l : Nat} (hk : PickedLag x k) (hl : PickedLag x l) : k = l := by
  have a : ¬ k < l := fun h => hl.2 k h hk.1
  have b : ¬ l < k := fun h => hk.2 l h hl.1
  omega

theorem pickLag_some (x : List (BitVec 16)) (lag : Nat) (h : x.length = 512) :
    pickLag (differenceTable (signedSamples x)) = some lag ↔ PickedLag x lag := by
  refine ⟨pickLag_picked x lag h, fun hp => ?_⟩
  cases e : pickLag (differenceTable (signedSamples x)) with
  | none => exact absurd hp.1 ((pickLag_none x h).mp e lag)
  | some k => rw [(pickLag_picked x k h e).unique hp]

/-! ### Refinement and the pitch index (R105, R106) -/

theorem offsetRuled_range (x : List (BitVec 16)) (lag : Nat) : -8 ≤ offsetRuled x lag ∧ offsetRuled x lag ≤ 8 := by
  simp only [offsetRuled]
  split <;> omega

theorem refinedLag_ruled (x : List (BitVec 16)) (lag : Nat) (h : x.length = 512) (hl : PickedLag x lag) :
    (refinedLag (differenceTable (signedSamples x)) lag : Int) = 16 * (lag : Int) + offsetRuled x lag := by
  obtain ⟨h1, h2⟩ := hl.1.1
  have hr := offsetRuled_range x lag
  have t := fun k a b => tableAt_ruled x k h a b
  have e : lagOffset (differenceRuled x (lag - 1)) (differenceRuled x lag) (differenceRuled x (lag + 1)) = offsetRuled x lag := by
    simp only [lagOffset, offsetRuled, clampInt]
  rw [refinedLag, t lag (by omega) (by omega), t (lag - 1) (by omega) (by omega), t (lag + 1) (by omega) (by omega), e]
  omega

/-- The count of a set of numbers from 1 on that is closed downwards reaches exactly its members. -/
theorem length_filter_closed (p : Nat → Bool) (hp : ∀ a b, a ≤ b → p b = true → p a = true) (n k : Nat) (hk : k < n) :
    k < ((List.range n).filter p).length ↔ p k = true := by
  induction n with
  | zero => omega
  | succ n ih =>
    rw [List.range_succ, List.filter_append, List.length_append]
    have hle : ((List.range n).filter p).length ≤ n := by simpa using List.length_filter_le p (List.range n)
    by_cases hn : p n = true
    · have all : (List.range n).filter p = List.range n :=
        List.filter_eq_self.mpr fun a ha => hp a n (by have := List.mem_range.mp ha; omega) hn
      simp only [all, List.length_range, List.filter_cons, hn, if_true, List.filter_nil, List.length_cons, List.length_nil]
      exact ⟨fun _ => hp k n (by omega) hn, fun _ => by omega⟩
    · simp only [List.filter_cons, hn, List.filter_nil, Bool.false_eq_true, if_false, List.length_nil, Nat.add_zero]
      rcases Nat.lt_succ_iff_lt_or_eq.mp hk with h | rfl
      · exact ih h
      · exact ⟨fun h => by omega, fun h => absurd h hn⟩

theorem pitchIndex_ruled (q : Nat) : PitchRuled q (pitchIndex q) := by
  refine ⟨by simpa [pitchIndex] using List.length_filter_le (fun k => pitchAbove q (k + 1)) (List.range 192), fun k h1 h2 => ?_⟩
  have closed : ∀ a b, a ≤ b → pitchAbove q (b + 1) = true → pitchAbove q (a + 1) = true := by
    intro a b hab h
    simp only [pitchAbove, decide_eq_true_eq] at h ⊢
    exact Nat.lt_of_le_of_lt (Nat.mul_le_mul_right _ (Nat.pow_le_pow_right (by omega) (by omega))) h
  have := length_filter_closed (fun k => pitchAbove q (k + 1)) closed 192 (k - 1) (by omega)
  simp only [pitchAbove, decide_eq_true_eq, show k - 1 + 1 = k by omega] at this
  rw [show (6400 : Nat) ^ 96 * 2 ^ 265 = 6400 ^ 96 * 2 ^ 200 * 2 ^ 65 by rw [Nat.mul_assoc, ← Nat.pow_add], ← this]
  simp only [pitchIndex, pitchAbove]
  omega

end Sys2Proof.Machine
end

