-- ==== Sys2Proof/Laws/Score.lean ====
section
/-! SUPPORT. Notes, the guide latch, credits, closes, finals, the encore promotion and the end of a song in
the terms of the claims. -/

namespace Sys2Proof.Machine

/-! ### Notes (R112, R115, R117) -/

theorem noteAt_start (m : Mem) (i : Nat) : (noteAt m i).start = noteStart m i := Mem.field_three _ _

theorem noteAt_stop (m : Mem) (i : Nat) : (noteAt m i).stop = noteStop m i := Mem.field_three _ _

theorem noteAt_part (m : Mem) (i : Nat) : (noteAt m i).part = notePart m i := by
  simp only [noteAt, notePart, namedPart]
  repeat' split
  all_goals simp_all

theorem noteAt_holds (m : Mem) (i : Nat) : ((noteAt m i).valid && (noteAt m i).note.isSome) = holdsNote m i := by
  simp only [noteAt, holdsNote, noteByte]
  by_cases h : 36 ≤ (m.read (8 * i + 1)).toNat <;> by_cases h2 : (m.read (8 * i + 1)).toNat ≤ 84 <;> simp [h, h2]

theorem noteAt_note (m : Mem) (i : Nat) (h : holdsNote m i = true) : (noteAt m i).note = some (noteByte m i) := by
  unfold holdsNote noteByte at h
  rw [Bool.and_eq_true, Bool.and_eq_true] at h
  exact if_pos ⟨of_decide_eq_true h.1.2, of_decide_eq_true h.2⟩

theorem isActive_iff (m : Mem) (p : Part) (t i : Nat) (hp : p ≠ .off) (hi : i < 1024) :
    isActive m p t i = true ↔ NoteContains m p t i := by
  have hn : notePart m i ≠ .off := by
    unfold notePart
    repeat' split
    all_goals decide
  have hacc : p.accepts (notePart m i) = true ↔
      (p = .a ∧ notePart m i ≠ .b ∨ p = .b ∧ notePart m i ≠ .a ∨ p = .both) := by
    cases p <;> cases h : notePart m i <;> simp_all [Part.accepts]
  simp only [isActive, NoteContains, Bool.and_eq_true, decide_eq_true_eq, ← noteAt_holds, noteAt_start, noteAt_stop, noteAt_part,
    hi, true_and, hacc, and_assoc]

theorem activeSlot_some (m : Mem) (p : Part) (t i : Nat) (hp : p ≠ .off) (h : ActiveNote m p t i) : activeSlot m p t = some i := by
  unfold activeSlot
  rw [List.find?_range_eq_some]
  refine ⟨(isActive_iff m p t i hp h.1.1).2 h.1, by simpa using h.1.1, fun j hj => ?_⟩
  simpa using mt (isActive_iff m p t j hp (by have := h.1.1; omega)).1 (h.2 j hj)

theorem activeSlot_none (m : Mem) (p : Part) (t : Nat) (hp : p ≠ .off) (h : ∀ i, ¬ NoteContains m p t i) : activeSlot m p t = none := by
  unfold activeSlot
  rw [List.find?_eq_none]
  intro i hi
  exact mt (isActive_iff m p t i hp (by simpa using hi)).1 (h i)

/-! ### The guide latch (R85, R88, R90) -/

theorem filterMap_ite {α β : Type} (l : List α) (p : α → Bool) (f : α → β) :
    l.filterMap (fun x => if p x then some (f x) else none) = (l.filter p).map f := by
  induction l with
  | nil => rfl
  | cons a l ih => simp only [List.filterMap_cons, List.filter_cons]; cases p a <;> simp [ih]

theorem visibleNotes_eq (m : Mem) (t span : Nat) :
    visibleNotes m t span = (((List.range 1024).filter (noteShown m t span)).take 32).map (fun i =>
      { start := noteStart m i, stop := noteStop m i, note := noteByte m i, part := notePart m i : VisibleNote }) := by
  unfold visibleNotes
  generalize List.range 1024 = l
  rw [List.map_take, ← filterMap_ite]
  dsimp only
  congr 2
  funext i
  have hv := noteAt_holds m i
  by_cases h : holdsNote m i = true
  · rw [h, Bool.and_eq_true] at hv
    have shown : noteShown m t span i = ((noteAt m i).valid && decide (noteStart m i < noteStop m i) &&
        decide ((noteStart m i : Int) < (t : Int) - ((span / 4 : Nat) : Int) + (span : Int)) &&
        decide ((t : Int) - ((span / 4 : Nat) : Int) < (noteStop m i : Int))) := by rw [noteShown, h, hv.1]
    rw [noteAt_note m i h, shown]
    simp only [noteAt_start, noteAt_stop, noteAt_part]
  · have none' : noteShown m t span i = false := by simp [noteShown, h]
    rw [Bool.eq_false_iff.2 h] at hv
    rw [none']
    cases hn : (noteAt m i).note with
    | none => rfl
    | some p => simp [hn] at hv; simp [hv]

/-- R85: the guide latch. -/
theorem makeGuideLatch_ruled (s : State) (h : s.clock.state ≠ .idle) : GuideLatched s (makeGuideLatch s) := by
  unfold GuideLatched makeGuideLatch
  dsimp only
  rw [s.clock.latchTime_eq h]
  refine ⟨rfl, rfl, rfl, rfl, rfl, rfl, rfl, rfl, fun c => by fin_cases c <;> rfl, rfl, rfl, rfl, rfl, rfl, rfl, rfl,
    visibleNotes_eq _ _ _, ?_⟩
  rw [← filterMap_ite]; rfl

/-! ### Credits, closes and counts (R118 to R122) -/

/-- R119: the model's octave is the nearest. -/
theorem nearestOctave_eq (e q : Int) (h : NearestOctaves e q) : q = nearestOctave e := by
  have h1 := (h (q + 1)).1
  have h2 := (h (q - 1)).1
  have h3 := h (nearestOctave e)
  simp only [nearestOctave] at *
  rcases Int.lt_trichotomy e 0 with he | he | he
  · rw [Int.sign_eq_neg_one_of_neg he] at *
    have := h3.2
    omega
  · subst he; simp at *; omega
  · rw [Int.sign_eq_one_of_pos he] at *
    have := h3.2
    omega

theorem creditOf_eq (d : Difficulty) (err : Nat) : creditOf d err = creditRuled d err := by cases d <;> rfl

theorem creditRuled_le (d : Difficulty) (err : Nat) : creditRuled d err ≤ 4 := by
  unfold creditRuled
  repeat' split
  all_goals omega

/-- R119, R120: the model's credit. -/
theorem frameCredit_ruled (c : Channel) (note : Nat) (e : Estimate) :
    frameCredit c note e ≤ 4 ∧ CreditAsRuled c note e (frameCredit c note e) := by
  constructor
  · unfold frameCredit
    split
    · rw [creditOf_eq]; exact creditRuled_le _ _
    · omega
  · refine ⟨fun h => by simp [frameCredit, h], fun h h2 => ?_, fun h h2 q hq => ?_⟩
    · simp [frameCredit, h, creditOf_eq, pitchError, h2, targetPitch, clampInt]
    · have := nearestOctave_eq _ _ hq
      simp only [frameCredit, h, creditOf_eq, pitchError, h2, targetPitch, clampInt, if_true, this]

theorem scoreOf_eq (frames credits hit counted : Nat) : scoreOf frames credits hit counted = scoreRuled frames credits hit counted := rfl

/-- R121: a close. -/
theorem Channel.closeNote_ruled (tolerance : Nat) (c : Channel) (o : OpenNote) (h : c.openNote = some o) :
    c.closeNote tolerance = closedRuled tolerance c o := by
  have hj : o.judged = decide (o.start + 64 ≤ o.stop) := decide_eq_decide.2 (by omega)
  have ht : o.onTime tolerance = o.onset.any (fun t => decide (t ≤ o.start + tolerance)) := by
    simp only [OpenNote.onTime]
    cases o.onset with
    | none => rfl
    | some t => exact decide_eq_decide.2 (by omega)
  unfold Channel.closeNote closedRuled
  simp only [h, hj, ht, Channel.score, scoreOf_eq, OpenNote.result]
  by_cases h1 : o.start + 64 ≤ o.stop <;>
    by_cases h2 : o.onset.any (fun t => decide (t ≤ o.start + tolerance)) = true <;> simp [h1, h2] <;> rfl

/-- R118, R120: a counted frame, into the note open on the slot or a fresh one. -/
theorem Channel.countFrame_ruled (c : Channel) (m : Mem) (slot tf : Nat) (e : Estimate)
    (ho : ∀ o, c.openNote = some o → o.slot = slot) (hh : holdsNote m slot = true) :
    c.countFrame slot (noteAt m slot) ((noteAt m slot).note.getD 0) tf e =
      countedRuled c m slot tf (frameCredit c (noteByte m slot) e) := by
  have hv : 2 ≤ frameCredit c (noteByte m slot) e → e.voiced = true := by
    intro h; by_contra hh; simp [frameCredit, hh] at h
  rw [noteAt_note m slot hh]
  unfold Channel.countFrame countedRuled Channel.noteFor
  cases h : c.openNote with
  | none => by_cases h2 : 2 ≤ frameCredit c (noteByte m slot) e <;> simp [h2, hv, noteAt_start, noteAt_stop]
  | some o =>
    have := ho o h
    subst this
    by_cases h2 : 2 ≤ frameCredit c (noteByte m o.slot) e <;> simp [h2, hv, noteAt_start, noteAt_stop]

/-- An estimate carries the moment its frame completed. -/
theorem Flight.estimate_moment (f : Flight) :
    f.estimate.position = f.position ∧ f.estimate.state = f.state ∧ f.estimate.epoch = f.epoch ∧ f.estimate.folding = f.folding := by
  unfold Flight.estimate
  dsimp only
  repeat' split
  all_goals simp

/-! ### Finals and the encore promotion (R122, R125, R165) -/

theorem Channel.final_ruled (c : Channel) : c.final = finalRuled c := rfl

theorem Score.lead_iff (x : Score) (c : Fin 4) :
    x.lead = some c ↔
      ((x.channels[c]).part = .a ∨ (x.channels[c]).part = .both) ∧
        ∀ j, j < c → ¬ ((x.channels[j]).part = .a ∨ (x.channels[j]).part = .both) := by
  have leads : ∀ c : Fin 4, (decide ((x.channels[c]).part = .a) || decide ((x.channels[c]).part = .both)) = true ↔
      ((x.channels[c]).part = .a ∨ (x.channels[c]).part = .both) := by simp
  unfold Score.lead
  rw [List.find?_eq_some_iff_getElem, leads]
  constructor
  · rintro ⟨h, i, hi, h2, h3⟩
    refine ⟨h, fun j hj hl => ?_⟩
    simp only [List.getElem_finRange] at h2 h3
    have := h3 j.val (by subst h2; exact hj)
    simp only [Bool.not_eq_true'] at this
    exact absurd ((leads j).2 hl) (Bool.eq_false_iff.1 this)
  · rintro ⟨h, h2⟩
    refine ⟨h, c.val, by simp, by simp, fun j hj => ?_⟩
    have := mt (leads ⟨j, by omega⟩).1 (h2 ⟨j, by omega⟩ hj)
    simp only [List.getElem_finRange, Bool.not_eq_true']
    exact Bool.eq_false_iff.2 this

/-- How many entries are passed: those behind the nearest pinned one, at most the steps. -/
theorem encorePasses_eq (pre passed : List Entry) (steps : Nat) (h1 : passed.length ≤ steps) (h2 : ∀ x ∈ passed, x.pin = false)
    (h3 : passed.length = steps ∨ pre = [] ∨ ∃ x, pre.getLast? = some x ∧ x.pin = true) :
    encorePasses (pre ++ passed) steps = passed.length := by
  have e : (passed.reverse ++ pre.reverse).take steps = passed.reverse ++ pre.reverse.take (steps - passed.length) := by
    rw [List.take_append]; simp; omega
  have stop : (pre.reverse.take (steps - passed.length)).takeWhile (fun e => !e.pin) = [] := by
    rcases h3 with h | h | ⟨x, hx, hp⟩
    · simp [h]
    · simp [h]
    · have head : pre.reverse.head? = some x := by simpa using hx
      cases hh : pre.reverse with
      | nil => simp
      | cons a l =>
        rw [hh] at head; simp at head; subst head
        cases steps - passed.length <;> simp [hp]
  unfold encorePasses
  rw [List.reverse_append, e, List.takeWhile_append_of_pos (by intro a ha; simp at ha; simp [h2 a ha]), stop]
  simp

theorem promoteFirst_none (h : Fin 16) (steps : Nat) (es : List Entry) (hn : ∀ x ∈ es, x.requester ≠ .handset h) :
    promoteFirst h steps es = es := by
  have : es.findIdx? (fun e => decide (e.requester = .handset h)) = none := by
    rw [List.findIdx?_eq_none_iff]; simpa using hn
  unfold promoteFirst
  rw [this]

theorem promoteFirst_eq (h : Fin 16) (steps : Nat) (pre passed : List Entry) (e : Entry) (back : List Entry)
    (he : e.requester = .handset h) (hn : ∀ x ∈ pre ++ passed, x.requester ≠ .handset h) (h1 : passed.length ≤ steps)
    (h2 : ∀ x ∈ passed, x.pin = false) (h3 : passed.length = steps ∨ pre = [] ∨ ∃ x, pre.getLast? = some x ∧ x.pin = true) :
    promoteFirst h steps (pre ++ passed ++ e :: back) = pre ++ e :: passed ++ back := by
  have front : (pre ++ passed).findIdx? (fun e => decide (e.requester = .handset h)) = none := by
    rw [List.findIdx?_eq_none_iff]; simpa using hn
  have place : (pre ++ passed ++ e :: back).findIdx? (fun e => decide (e.requester = .handset h)) = some (pre ++ passed).length := by
    rw [List.findIdx?_append, front]; simp [List.findIdx?_cons, he]
  have at' : (pre ++ passed ++ e :: back)[(pre ++ passed).length]? = some e := by
    rw [List.getElem?_append_right (Nat.le_refl _)]; simp
  have ahead : (pre ++ passed ++ e :: back).take (pre ++ passed).length = pre ++ passed := List.take_left
  have behind : (pre ++ passed ++ e :: back).drop ((pre ++ passed).length + 1) = back := by
    rw [← List.drop_drop, List.drop_left]; rfl
  have i : (pre ++ passed).length - passed.length = pre.length := by simp
  unfold promoteFirst
  simp only [place, at', ahead, behind, encorePasses_eq pre passed steps h1 h2 h3, i, List.take_left, List.drop_left]

/-! ### Every note closed, and the end of a song (R121, R123, R48) -/

theorem Channel.closeNote_none (tol : Nat) (c : Channel) (h : c.openNote = none) : c.closeNote tol = c := by
  simp [Channel.closeNote, h]

theorem openNotes_ruled (x : Score) : x.openNotes = x.channels.toList.countP (fun c => c.openNote.isSome) := by
  simp only [Score.openNotes]
  induction x.channels.toList with
  | nil => rfl
  | cons c l ih =>
    simp only [List.map_cons, List.sum_cons, List.countP_cons, ih, Channel.openCount]
    cases c.openNote <;> simp; omega

/-- Every open note closed: the channels and the count (R121, R123). -/
theorem closeAllNotes_closed (s : State) : NotesClosed s (closeAllNotes s) := by
  refine ⟨by simp [closeAllNotes, bumpScore, openNotes_ruled], fun c => ⟨fun h => ?_, fun n h => ?_⟩⟩
  · have : (closeAllNotes s).score.channels[c] = (s.score.channels[c]).closeNote s.clock.onsetTolerance := mapAll_get _ _ _
    rw [this, Channel.closeNote_none _ _ h]
  · have : (closeAllNotes s).score.channels[c] = (s.score.channels[c]).closeNote s.clock.onsetTolerance := mapAll_get _ _ _
    rw [this, Channel.closeNote_ruled _ _ _ h]

theorem Raised.endSong {s t : State} {r : Nat} {p : Nat → Prop} (h : Raised s t r p) (o : EndOutcome) :
    Raised s (endSong o t) r (fun k => p k ∨ k = 3 ∨ k = 14 ∧ evaluated (endSong o t) t.queue.entries ≠ t.queue.entries) := by
  have h0 : ∀ u : State, Machine.endSong o t = Machine.standbyEvaluate u → u.queue = t.queue →
      Raised s u r (fun k => p k ∨ k = 3) → Raised s (Machine.endSong o t) r
        (fun k => p k ∨ k = 3 ∨ k = 14 ∧ evaluated (Machine.endSong o t) t.queue.entries ≠ t.queue.entries) := by
    intro u he hq hR
    rw [he]
    refine hR.standbyEvaluate.iff fun n => ?_
    rw [evaluated_standbyEvaluate, hq, or_assoc]
  refine h0 _ rfl (by simp [closeAllNotes, bumpScore]) ?_
  rw [raise_eq]
  exact (((h.congr (u := { t with clock := t.clock.finish o }) rfl rfl).signalled (n := 3) (by decide)).congr rfl rfl)

/-- The end of a song (R48, R121, R124, R164). -/
theorem endSong_ended (o : EndOutcome) (s : State) : SongEnded o 0 s (endSong o s) := by
  have h0 : ∀ u : State, endSong o s = standbyEvaluate u → u.clock = s.clock.finish o →
      u.score = { (closeAllNotes s).score with posting := some { outcome := o, start := s.timebase } } →
      u.queue = s.queue → u.room = s.room → u.anchor = s.anchor → SongEnded o 0 s (endSong o s) := by
    intro u he hc hs hq hr ha
    have hR := (Raised.refl s).endSong o
    rw [he] at hR ⊢
    have hn := closeAllNotes_closed s
    refine ⟨by simp [hc, SongClock.finish], ?_, ?_, ?_, hR.iff fun n => by simp⟩
    · simp only [standbyEvaluate_frame, hs]; rfl
    · unfold NotesClosed at hn ⊢
      simp only [standbyEvaluate_frame, hs]; exact hn
    · rw [standbyEvaluate_queue, hq]; exact evaluatedQueue_congr (by simp) (by simp) (by simp) _
  refine h0 _ rfl ?_ ?_ ?_ ?_ ?_
  · simp [closeAllNotes, bumpScore]
  · simp [closeAllNotes, bumpScore, SongClock.finish]
  · simp [closeAllNotes, bumpScore]
  · simp [closeAllNotes, bumpScore]
  · simp [closeAllNotes, bumpScore]

/-- No note open is left. -/
theorem NotesClosed.none_open {s t : State} (h : NotesClosed s t) (c : Fin 4) : (t.score.channels[c]).openNote = none := by
  cases e : (s.score.channels[c]).openNote with
  | none => rw [(h.2 c).1 e]; exact e
  | some n => rw [(h.2 c).2 n e]; rfl

/-- A second closing closes nothing. -/
theorem NotesClosed.again {s t u : State} (h : NotesClosed s t) (h' : NotesClosed t u) : NotesClosed s u := by
  have hz : t.score.channels.toList.countP (fun c => c.openNote.isSome) = 0 := by
    refine List.countP_eq_zero.mpr fun c hc => ?_
    obtain ⟨i, hi, rfl⟩ := Vector.mem_iff_getElem.mp (Vector.mem_toList_iff.mp hc)
    have := h.none_open ⟨i, hi⟩
    simpa using this
  refine ⟨by rw [h'.1, hz, h.1]; simp, fun c => ?_⟩
  rw [(h'.2 c).1 (h.none_open c)]
  exact h.2 c

/-- R52: the frames that a seek sets read back as the position given, at any of the three rates. -/
theorem seek_position (p r l : Nat) (hr : 1000 ≤ r) : ((p * r + 999) / 1000 + l - l) * 1000 / r = p := by
  rw [Nat.add_sub_cancel]
  have h1 : (p * r + 999) / 1000 * 1000 ≤ p * r + 999 := Nat.div_mul_le_self _ _
  have h2 : p * r ≤ (p * r + 999) / 1000 * 1000 := by omega
  refine Nat.div_eq_of_lt_le (by linarith) ?_
  rw [Nat.add_mul]; omega

end Sys2Proof.Machine
end

