-- ==== Sys2Proof/Tests/Slice0.lean ====
section
/-! SUPPORT. Small tests, their expected results from the manual's worked examples and tables; a smoke test of
WellFormed; and, for each statement of Obligations that has hypotheses, one theorem `witness_<statement>` that shows
concrete states and operands that meet them, clause by clause; `witness_<statement>_<clause>` runs a clause on such a state. -/

set_option Elab.async false

namespace Sys2Proof.Tests

open Sys2Proof Sys2Proof.Machine

/-! ### Building small states -/

/-- The outcome is a next state that satisfies p. -/
def holds (o : Host.Outcome State Fault Refusal) (p : State → Bool) : Bool :=
  match o with
  | .next t => p t
  | .fault _ => false
  | .refused _ => false

/-- Bytes stored at a position and upward. -/
def putBytes (m : Mem) (a : Nat) : List Byte → Mem
  | [] => m
  | b :: bs => putBytes (m.write a b) (a + 1) bs

/-- Shadow bytes at an anchor offset. -/
def shadow (a : Nat) (bs : List Byte) (s : State) : State :=
  { s with anchor := { s.anchor with bytes := putBytes s.anchor.bytes a bs } }

/-- A live window entry. -/
def window (i : Fin 16) (base mask size role unit guard : Nat) (s : State) : State :=
  let s := shadow (16 * i.val)
    (leBytes 4 base ++ leBytes 2 mask ++ leBytes 1 size ++ leBytes 1 role ++ leBytes 1 unit ++ leBytes 1 guard ++ zeros 5 ++ [1]) s
  { s with anchor := { s.anchor with live := setMember s.anchor.live i true } }

/-- A one-beat write that has been accepted with this treatment, its data not yet taken. -/
def writing (b : Beat) (s : State) : State :=
  { s with bus := { s.bus with
      held := none
      list := [{ serial := 0, request := { addr := b.addr, dir := .write, beats := 1, tag := 0 }, beats := [b]
                 runs := runsFrom 0 none [b], taken := [] }] } }

/-- That state with the data taken. -/
def written (b : Beat) (d : Data) (en : Enables) (s : State) : State :=
  { s with bus := { s.bus with
      held := none
      list := [{ serial := 0, request := { addr := b.addr, dir := .write, beats := 1, tag := 0 }, beats := [b]
                 runs := runsFrom 0 none [b], taken := [(d, en)] }] } }

/-- The hypothesis of the statements about write beats. -/
theorem takes (b : Beat) (d : Data) (en : Enables) (s : State) : TakesData (writing b s) b d en (written b d en s) :=
  ⟨_, rfl, rfl, Nat.zero_lt_one, rfl, rfl, rfl⟩

/-- A song of 40,000 ms in a state, with a latency of 960 frames. -/
def song (st : SongState) (s : State) : State :=
  { s with
    clock := { SongClock.reset with
      state := st, duration := 40000, song := 40877, latency := 960
      stall := if st = .running then some 0 else none }
    queue := { s.queue with nowPlaying := (some
      { source := .queue, tag := 4, song := 40877, requester := .handset 5, difficulty := .normal, key := 0
        duet := false, pin := false, repeats := 0, duration := 40 }) } }

/-- An open room. -/
def room (r : Nat) (s : State) : State := { s with room := { state := .opened, remaining := r, timer := some 0 } }

/-- A queue entry of handset 2. -/
def entry (tag songNo duration : Nat) (st : EntryState) : Entry :=
  { tag := tag, song := songNo, requester := .handset 2, difficulty := .normal, key := 0, duet := false, pin := false
    repeats := 0, duration := duration, state := st }

/-- A queue list. -/
def queued (es : List Entry) (s : State) : State := { s with queue := { s.queue with entries := es, nextTag := es.length + 1 } }

/-- A handset's record. -/
def handset (h : Fin 16) (st : HandsetState) (errors : Nat) (s : State) : State :=
  { s with handsets := { s.handsets with records := (setAt s.handsets.records h
      { Handset.reset with
        state := st, errors := errors
        presence := if st.present then some 0 else none, quiet := if st = .barred then some 0 else none }) } }

/-- Slot 030h of entry 5 with host tag 44. -/
def slot : CmdSlot := { hostTag := 44, entry := 5, offset := 0x30 }

/-- A packet of handset h with sequence 41. -/
def head (h : Fin 16) : PacketHead := { handset := h, sequence := 41, flags := 0 }

/-- The outcome that the last-command record holds. -/
def outcome (t : State) : CmdOutcome := t.intake.last.outcome

/-- The tags and states of the queue. -/
def tagStates (t : State) : List (Nat × EntryState) := t.queue.entries.map (fun e => (e.tag, e.state))

/-! ### WellFormed: an ill-formed term for each check -/

theorem test_misaligned_request : (Instr.requestAccept { addr := 4, dir := .read, beats := 1, tag := 0 }).wellFormed = false := by decide
theorem test_empty_request : (Instr.requestAccept { addr := 8, dir := .read, beats := 0, tag := 0 }).wellFormed = false := by decide
theorem test_long_request : (Instr.requestAccept { addr := 8, dir := .write, beats := 17, tag := 0 }).wellFormed = false := by decide
theorem test_long_run_data : (Instr.runCompletion 0 false (List.replicate 17 0)).wellFormed = false := by decide
theorem test_slot_offset : (Instr.songStart { hostTag := 0, entry := 0, offset := 8 }).wellFormed = false := by decide
theorem test_known_code : (Instr.unknown slot 0x52).wellFormed = false := by decide
theorem test_zero_code : (Instr.unknown slot 0).wellFormed = false := by decide
theorem test_known_kind : (Instr.packetUnknownKind (head 0) 4).wellFormed = false := by decide

/-! ### The bus path: the worked example of one burst across two windows, and that of enabling an entry -/

/-- Entry 1: a VIEW of the status view; entry 2: NONE over 64 KiB; both guarded, mask tag 0. -/
def twoWindows : State := window 2 0x20000000 1 4 0 0 1 (window 1 0x20000000 1 0 9 0 1 State.reset)

/-- Request A of the example. -/
def requestA : BusRequest := { addr := 0x20000FC0, dir := .read, beats := 16, tag := 0 }
/-- Request B of the example. -/
def requestB : BusRequest := { addr := 0x20000FF0, dir := .write, beats := 4, tag := 6 }

theorem test_accept_makes_one_run : holds (exec (.requestAccept requestA) twoWindows) (fun t =>
    decide (t.bus.list.map Listed.runs = [[{ first := 8, count := 8, status := .waiting }]])) = true := by decide +kernel

theorem test_accept_records_highest_block : holds (exec (.requestAccept requestB) twoWindows) (fun t =>
    decide (t.blocked = { valid := true, addr := 0x20001008, tag := 6, dir := .write, cause := .guard }) &&
      decide (t.events = 2) && decide (t.bus.list.map Listed.runs = [[]])) = true := by decide +kernel

/-- An accepted read of two beats that are passed. -/
def reading : State :=
  { State.reset with bus := { State.reset.bus with
      nextSerial := 1
      list := [{ serial := 0, request := { addr := 0x20001000, dir := .read, beats := 2, tag := 3 }
                 beats := [{ addr := 0x20001000, treatment := .pass }, { addr := 0x20001008, treatment := .block }]
                 runs := [{ first := 0, count := 1, status := .waiting }], taken := [] }] } }

/-- The same with its run outstanding at the D port. -/
def outstanding : State :=
  { State.reset with bus := { State.reset.bus with
      nextSerial := 1
      list := [{ serial := 0, request := { addr := 0x20001000, dir := .read, beats := 2, tag := 3 }
                 beats := [{ addr := 0x20001000, treatment := .pass }, { addr := 0x20001008, treatment := .block }]
                 runs := [{ first := 0, count := 1, status := .forwarded }], taken := [] }]
      dPort := [{ owner := some (0, 0), dir := .read, tag := 3, addr := 0x20001000, count := 1, data := [] }] } }

/-- The same with its run completed. -/
def completed : State :=
  { State.reset with bus := { State.reset.bus with
      nextSerial := 1
      list := [{ serial := 0, request := { addr := 0x20001000, dir := .read, beats := 2, tag := 3 }
                 beats := [{ addr := 0x20001000, treatment := .pass }, { addr := 0x20001008, treatment := .block }]
                 runs := [{ first := 0, count := 1, status := .completed false [0x1122] }], taken := [] }] } }

theorem test_run_forward : holds (exec .runForward reading) (fun t => decide (t = outstanding)) = true := by decide +kernel

theorem test_run_completion : holds (exec (.runCompletion 0 false [0x1122]) outstanding) (fun t => decide (t = completed)) = true := by
  decide +kernel

/-- R3: zeros for the BLOCKed beat, and FAULT. -/
theorem test_completion_leaves : holds (exec .completionLeave completed) (fun t =>
    decide (t.bus.list = []) && decide (t.bus.uPort.map Completion.data = some [0x1122, 0]) &&
      decide (t.bus.uPort.map Completion.fault = some true)) = true := by decide +kernel

/-- The example's memory top of 512 MiB, with entry 3's first beat written. -/
def topAndHalfEntry (base size : Nat) : State :=
  shadow 48 (leBytes 4 base ++ leBytes 2 1 ++ leBytes 1 size ++ leBytes 1 2) (shadow 0x100 [0, 2] State.reset)

/-- The beat that carries the enable field of entry 3. -/
def enableBeat : Beat := { addr := 0x0FFFF038, treatment := .snoop .anchor }

/-- Write 1: the range shares addresses with the anchor page. -/
theorem test_entry_over_anchor_page : holds (exec (.writeBeatDataTaken 0x0100000000000000 0xFF) (writing enableBeat (topAndHalfEntry 0x0FFF0000 4)))
    (fun t => decide (t.anchor.lastFault = .entry 3) && decide (t.anchor.live = 0) && decide (t.events = 1)) = true := by
  decide +kernel

/-- Write 3: base + size at the memory top exactly. -/
theorem test_entry_up_to_memory_top : holds (exec (.writeBeatDataTaken 0x0100000000000000 0xFF) (writing enableBeat (topAndHalfEntry 0x1FFF0000 4)))
    (fun t => decide (t.anchor.lastFault = .none) && decide (t.anchor.live = 8)) = true := by decide +kernel

/-- The worked QUEUE_INSERT record, in its two beats, in an open room. -/
theorem test_command_record : holds
    (exec (.writeBeatDataTaken 0x0100FE01 0xFF)
      (writing { addr := 0x21000008, treatment := .snoop (.command { index := 5, base := 0x21000000, sizeCode := 0 }) }
        (setFirstHalf (some { entry := 5, slot := 0, data := 0x00F0010119402A30 }) (room 2400 State.reset))))
    (fun t => decide (t.queue.entries =
        [{ tag := 1, song := 72000, requester := .staff, difficulty := .normal, key := -2, duet := false, pin := true
           repeats := 0, duration := 240, state := .queued }]) &&
      decide (t.intake.last = { valid := true, hostTag := 0x2A, code := 0x30, outcome := .done, entry := 5, offset := 0 })) = true := by
  decide +kernel

/-! ### Resets -/

theorem test_cold_reset : holds (exec .coldReset (song .running twoWindows)) (fun t =>
    decide (t = { State.reset with resetLow := true })) = true := by decide +kernel

theorem test_cold_release : holds (exec (.coldResetRelease 3) { State.reset with resetLow := true, timebase := 9 }) (fun t =>
    decide (t = { State.reset with anchorSel := 3 })) = true := by decide +kernel

theorem test_bus_reset_ends_song : holds (exec .busReset (song .running twoWindows)) (fun t =>
    decide (t.clock.state = .ended) && decide (t.clock.endOutcome = .reset) && decide (t.clock.epoch = 1) &&
      decide (t.events = 8) && decide (t.anchor = twoWindows.anchor)) = true := by decide +kernel

theorem test_bus_reset_release : holds (exec .busResetRelease { State.reset with busResetLow := true }) (fun t =>
    decide (t = State.reset)) = true := by decide +kernel

/-! ### Commands -/

theorem test_unknown : holds (exec (.unknown slot 0x35) State.reset) (fun t =>
    decide (t.intake.last = { valid := true, hostTag := 44, code := 0x35, outcome := .unknown, entry := 5, offset := 0x30 }) &&
      decide (t.events = 4) && decide (t.statusGen = 2)) = true := by decide +kernel

/-- Steps 5 and 7 of the worked example of events. -/
theorem test_ack_one : holds (exec (.ackEvents slot 0x0004) { State.reset with events := 0x2204 }) (fun t =>
    decide (t.events = 0x2200) && decide (outcome t = .done) && decide (t.statusGen = 2)) = true := by decide +kernel
theorem test_ack_all : holds (exec (.ackEvents slot 0x2200) { State.reset with events := 0x2200 }) (fun t => decide (t.events = 0)) = true := by
  decide +kernel

/-- Event 9 disabled; pointers ATTN0 for 3, 4 and 13, ATTN1 for 2. -/
def pointers : State :=
  shadow 0x150 [0, 0, 2, 1, 1, 0, 0, 0, 0, 0, 0, 0, 0, 1, 0, 0] (shadow 0x14A [0, 2] State.reset)

theorem test_highest_and_lines :
    ({ pointers with events := 0x2204 }).highestPending = 2 ∧ ({ pointers with events := 0x2204 }).attn0 = true ∧
      ({ pointers with events := 0x2204 }).attn1 = true ∧ ({ pointers with events := 0x0200 }).highestPending = 16 ∧
      ({ pointers with events := 0x0200 }).attn0 = false := by decide +kernel

/-- The queue of the worked example of requests after step 6. -/
def room2400 : State :=
  queued [{ entry 4 72000 240 .queued with requester := .staff }, entry 1 40123 300 .queued,
    { entry 2 51007 280 .queued with requester := .handset 5 }, entry 3 33333 1500 .standby] (room 2400 State.reset)

/-- The arguments of step 7. -/
def loadArgs : SongLoadArgs :=
  { source := 0, partMap := 1, duration := 240000, song := 0, difficulty := 0, key := 0, floorNote := 36, ceilNote := 84 }

theorem test_song_load_takes_first : holds (exec (.songLoad slot loadArgs) room2400) (fun t =>
    decide (tagStates t = [(1, .queued), (2, .queued), (3, .standby)]) && decide (t.queue.nowPlaying.map NowPlaying.tag = some 4) &&
      decide (t.clock.state = .loaded) && decide (t.queue.gen = 1)) = true := by decide +kernel

theorem test_song_load_empty : holds (exec (.songLoad slot loadArgs) State.reset) (fun t =>
    decide (outcome t = .refusedEmpty) && decide (t.clock = SongClock.reset)) = true := by decide +kernel

theorem test_song_start : holds (exec (.songStart slot) (song .loaded State.reset)) (fun t => decide (t.clock.state = .armed)) = true := by
  decide +kernel

/-- The song of the worked seek example: 44,100 Hz and a latency of 441 frames. -/
def seekable : State := { State.reset with clock := { (song .running State.reset).clock with rate := 44100, latency := 441 } }

theorem test_seek_1500 : holds (exec (.songSeek slot 1500 12) seekable) (fun t =>
    decide (t.clock.frames = 66591) && decide (t.clock.position = 1500) && decide (t.lyrics.nextLine = 12)) = true := by
  decide +kernel

/-- R52: the ceiling reaches 1001 ms exactly. -/
theorem test_seek_1001 : holds (exec (.songSeek slot 1001 0) seekable) (fun t =>
    decide (t.clock.frames = 44145 + 441) && decide (t.clock.position = 1001)) = true := by decide +kernel

/-- R53: a song stopped before it started still posts. -/
theorem test_song_stop : holds (exec (.songStop slot) (song .loaded State.reset)) (fun t =>
    decide (t.clock.state = .ended) && decide (t.clock.endOutcome = .stopped) && decide (t.clock.position = 0) &&
      decide (t.clock.postingDone = false) && decide (t.score.posting.isSome = true)) = true := by decide +kernel

theorem test_clear_board : holds
    (exec (.scoreClearBoard slot)
      { State.reset with score := { Score.reset with board := Vector.replicate 16 { completed := 3, last := 8120, best := 8120 } } })
    (fun t => decide (t.score.board = Score.reset.board) && decide (t.score.gen = 1)) = true := by decide +kernel

/-- Step 6 of the worked example: the insert at the head turns tag 3 to STANDBY, and the generation rises by 2. -/
theorem test_queue_insert : holds
    (exec (.queueInsert slot
        { song := 72000, position := 1, duration := 240, difficulty := 1, key := 0xFE, duet := 0, pin := 1 })
      (queued [entry 1 40123 300 .queued, entry 2 51007 280 .queued, entry 3 33333 1500 .queued] (room 2400 State.reset)))
    (fun t => decide (tagStates t = [(4, .queued), (1, .queued), (2, .queued), (3, .standby)]) && decide (t.queue.gen = 2)) = true := by
  decide +kernel

/-- R155, R175: a pin flag of 2 is refused. -/
theorem test_queue_insert_pin : holds
    (exec (.queueInsert slot { song := 72000, position := 1, duration := 240, difficulty := 1, key := 0, duet := 0, pin := 2 })
      (room 2400 State.reset)) (fun t => decide (outcome t = .refusedArgument)) = true := by decide +kernel

/-- The five entries of the worked budget example, room open. -/
def five (r : Nat) : State :=
  queued [entry 11 1 300 .queued, entry 12 2 240 .waiting, entry 13 3 1200 .queued, entry 14 4 900 .standby,
    entry 15 5 60 .queued] (room r State.reset)

theorem test_queue_remove : holds (exec (.queueRemove slot 13) (five 1800)) (fun t =>
    decide (tagStates t = [(11, .queued), (12, .waiting), (14, .queued), (15, .queued)])) = true := by decide +kernel

/-- R157: the second of five moved to position 4. -/
theorem test_queue_move : holds (exec (.queueMove slot 12 4) (five 1800)) (fun t =>
    decide (t.queue.entries.map Entry.tag = [11, 13, 14, 12, 15])) = true := by decide +kernel

/-- Evaluation 4 of the budget example. -/
theorem test_queue_confirm : holds (exec (.queueConfirm slot 12) (five 1800)) (fun t =>
    decide (tagStates t = [(11, .queued), (12, .queued), (13, .standby), (14, .queued), (15, .queued)]) &&
      decide (t.queue.gen = 2)) = true := by decide +kernel

theorem test_queue_pin : holds (exec (.queuePin slot 14 1) (five 1800)) (fun t =>
    decide (t.queue.entries.map Entry.pin = [false, false, false, true, false]) && decide (t.queue.gen = 1)) = true := by
  decide +kernel

theorem test_handset_release : holds (exec (.handsetRelease slot 9) (handset 9 .barred 256 State.reset)) (fun t =>
    decide ((t.handsets.records[(9 : Fin 16)]).state = .active) && decide ((t.handsets.records[(9 : Fin 16)]).errors = 0) &&
      decide (t.events = 0x1000)) = true := by decide +kernel

theorem test_room_open : holds (exec (.roomOpen slot 300) (handset 9 .held 130 State.reset)) (fun t =>
    decide (t.room = { state := .opened, remaining := 300, timer := some 0 }) && decide (t.handsets.records = Handsets.reset.records) &&
      decide (t.events = 0x9000)) = true := by decide +kernel

/-- Evaluation 6 of the budget example: OVERTIME extended by 600 s. -/
theorem test_room_extend : holds
    (exec (.roomExtend slot 600)
      { queued [entry 11 1 300 .standby, entry 12 2 240 .standby, entry 13 3 1200 .standby, entry 14 4 900 .standby,
          entry 15 5 60 .standby] State.reset with room := { state := .overtime, remaining := 0, timer := none } })
    (fun t => decide (tagStates t = [(11, .queued), (12, .queued), (13, .standby), (14, .standby), (15, .standby)]) &&
      decide (t.events.getLsbD 15 = false) && decide (t.room.remaining = 600)) = true := by decide +kernel

theorem test_room_close : holds (exec (.roomClose slot) (five 1800)) (fun t =>
    decide (t.room = Room.reset) && decide (t.queue.entries = []) && decide (outcome t = .done)) = true := by decide +kernel

/-! ### Timers, capture and scoring -/

theorem test_stall_expiry : holds (exec .stallTimerExpiry { song .running State.reset with timebase := 250 }) (fun t =>
    decide (t.clock.state = .stalled) && decide (t.clock.stall = none) && decide (t.events = 0x20)) = true := by decide +kernel

/-- A framer that lacks one beat, at the address where step 5 of the worked example completes its frame. -/
def framing : State :=
  { window 9 0x26000000 1 0 5 1 0 (song .running State.reset) with
    framers := setAt State.reset.framers 1
      { expected := some (9, 0x26000480), samples := List.replicate 508 0, gaps := 1 } }

theorem test_frame_complete : holds (exec (.frameComplete 1 0x0004000300020001) framing) (fun t =>
    decide (t.framers[(1 : Fin 4)] = { expected := some (9, 0x26000488), samples := [], gaps := 1 }) &&
      decide ((t.flights[(1 : Fin 4)]).map (fun f => f.samples.drop 508) = some [1, 2, 3, 4])) = true := by decide +kernel

/-- R105, R106: the worked lags and their pitch indices. -/
theorem test_pitch_index : pitchIndex 1165 = 84 ∧ pitchIndex 248 = 191 ∧ pitchIndex 3968 = 0 := by decide +kernel
theorem test_lag_offset : lagOffset 1490 560 2610 = -3 ∧ lagOffset 5 5 5 = 0 ∧ lagOffset 4 4 8 = -8 := by decide

/-- Frame 3 of the worked note: P 82 against T 84 under NORMAL. -/
theorem test_frame_credit :
    let c := { Channel.reset with part := .a }
    let e := { Estimate.reset with voiced := true, cause := .none, pitch := 82, position := 30124, state := .running }
    let m := putBytes [] (8 * 310) ([0x11, 57] ++ leBytes 3 30000 ++ leBytes 3 30370)
    (c.post (song .running State.reset).clock m e).1.openNote =
      some { slot := 310, start := 30000, stop := 30370, frames := 1, credits := 3, onset := some 30068 } := by decide +kernel

/-- R119: an octave up folds to the same error; R121: the worked note's close. -/
theorem test_octave_fold : pitchError 130 84 true = -2 ∧ pitchError 130 84 false = 46 ∧ pitchError 108 84 true = 24 := by decide
theorem test_note_close :
    ({ Channel.reset with
      frames := 12, credits := 39
      openNote := some { slot := 310, start := 30000, stop := 30370, frames := 12, credits := 39, onset := some 30068 } }.closeNote 96) =
      { Channel.reset with
        frames := 12, credits := 39, notesClosed := 1, notesHit := 1, onsetsCounted := 1, onsetsHit := 1, running := 8500 } := by
  decide

/-- An estimate of silence. -/
theorem test_estimate_posting : holds
    (exec (.estimatePosting 2)
      { State.reset with flights := setAt State.reset.flights 2 (some
          { samples := List.replicate 512 0, position := 7, state := .running, epoch := 0, voicing := 400, folding := true, start := 0 }) })
    (fun t => decide ((t.score.channels[(2 : Fin 4)]).latest =
      { voiced := false, cause := .quiet, energy := 0, lag := 0, pitch := 0, position := 7, state := .running, epoch := 0
        folding := true })) = true := by decide +kernel

/-- The worked finals: a song of handset 5 ends COMPLETE, threshold 7500 with 2 steps, past the pinned tag 21. -/
def ending : State :=
  let s := shadow 0x142 (leBytes 2 7500) (shadow 0x145 [2] (song .ended State.reset))
  let s := { s with clock := { s.clock with endOutcome := .complete, postingDone := false } }
  { s with
    queue := { s.queue with entries :=
      [{ entry 21 1 60 .queued with pin := true }, entry 22 2 60 .queued, entry 23 3 60 .queued,
        { entry 24 6 60 .queued with requester := .handset 5 }, { entry 25 7 60 .queued with requester := .handset 5 }] }
    score := { s.score with
      posting := some { outcome := .complete, start := 0 }
      channels := #v[
        { Channel.reset with part := .a, frames := 3000, credits := 9150, onsetsHit := 60, onsetsCounted := 75 },
        { Channel.reset with part := .b, frames := 800, credits := 1000 }, Channel.reset, { Channel.reset with part := .both }]
      board := setAt s.score.board 5 { completed := 3, last := 8120, best := 8120 } } }

theorem test_result_posting : holds (exec .resultPostingComplete ending) (fun t =>
    decide (t.score.result.finals.toList = [{ score := 7700, flag := .none }, { score := 3125, flag := .none },
      { score := 0, flag := .off }, { score := 0, flag := .noVoice }]) &&
    decide (t.score.board[(5 : Fin 16)] = { completed := 4, last := 7700, best := 8120 }) &&
    decide (t.score.result.lead = some 0)) = true := by decide +kernel

theorem test_encore_past_pin : holds (exec .resultPostingComplete ending) (fun t =>
    decide (t.queue.entries.map Entry.tag = [21, 24, 22, 23, 25]) && decide (t.queue.nowPlaying = none) &&
      decide (t.queue.gen = 3)) = true := by decide +kernel

/-! ### Packets -/

/-- A REQUEST of 300 s. -/
def fields (songNo : Nat) : RequestFields := { song := BitVec.ofNat 24 songNo, difficulty := 1, key := 0, duration := 300, duet := 0 }

/-- Step 1 of the worked example of requests. -/
theorem test_request : holds (exec (.request (head 2) (fields 40123)) (room 2400 State.reset)) (fun t =>
    decide (t.handsets.records[(2 : Fin 16)].reply = { sequence := 41, outcome := .accepted, tag := 1, position := 1, pendingCount := 1 }) &&
      decide (t.handsets.records[(2 : Fin 16)].state = .active) && decide (t.queue.gen = 1)) = true := by decide +kernel

/-- Step 2 of the worked barring example: HELD at 128, the entry waits and the handset returns to ACTIVE. -/
theorem test_request_waits : holds (exec (.request (head 9) (fields 40123)) (handset 9 .held 128 (room 2400 State.reset))) (fun t =>
    decide (t.handsets.records[(9 : Fin 16)].reply.outcome = .waiting) && decide (t.handsets.records[(9 : Fin 16)].errors = 127) &&
      decide (t.handsets.records[(9 : Fin 16)].state = .active) && decide (t.events = 0x7400)) = true := by decide +kernel

/-- Step 8 of the worked example of requests: the removal lets tag 3 become QUEUED. -/
theorem test_cancel : holds
    (exec (.cancel (head 5) 51007)
      { queued [entry 1 40123 300 .queued, { entry 2 51007 280 .queued with requester := .handset 5 }, entry 3 33333 1500 .standby]
          (room 2400 State.reset) with
        clock := { SongClock.reset with state := .loaded, duration := 240000 } })
    (fun t => decide (tagStates t = [(1, .queued), (3, .queued)]) && decide (t.queue.gen = 2) &&
      decide (t.handsets.records[(5 : Fin 16)].reply = { sequence := 41, outcome := .cancelled, tag := 2, position := 0, pendingCount := 0 })) = true := by
  decide +kernel

/-- Two of four handsets have voted after the third vote of the example is given: it passes. -/
theorem test_vote : holds
    (exec (.voteSkip (head 1) 40877) (handset 1 .active 0 (handset 3 .active 0 (room 2400 (song .running State.reset))))) (fun t =>
      decide (t.handsets.records[(1 : Fin 16)].vote = true) && decide (t.handsets.votePassed = true) &&
        decide (t.handsets.records[(1 : Fin 16)].reply.outcome = .voted)) = true := by decide +kernel

/-- R149: a handset whose song is playing and that has nothing queued. -/
theorem test_query : holds (exec (.query (head 5)) (room 2400 (song .running State.reset))) (fun t =>
    decide (t.handsets.records[(5 : Fin 16)].reply = { sequence := 41, outcome := .queryOk, tag := 0, position := 0, pendingCount := 1 })) = true := by
  decide +kernel

/-- Step 1 of the worked barring example. -/
theorem test_unknown_kind : holds (exec (.packetUnknownKind (head 9) 7) (handset 9 .active 120 (room 2400 State.reset))) (fun t =>
    decide (t.handsets.records[(9 : Fin 16)].errors = 128) && decide (t.handsets.records[(9 : Fin 16)].state = .held) &&
      decide (t.events = 0x3000)) = true := by decide +kernel

/-- Presence of 15 minutes, to the tick. -/
theorem test_presence_expiry : holds
    (exec (.presenceExpiry 4) { handset 4 .active 7 State.reset with timebase := 900000 }) (fun t =>
      decide (t.handsets.records[(4 : Fin 16)].state = .absent) && decide (t.handsets.records[(4 : Fin 16)].errors = 7)) = true := by
  decide +kernel

theorem test_quiet_interval : holds
    (exec (.quietIntervalExpiry 9) { handset 9 .barred 256 State.reset with timebase := 10000 }) (fun t =>
      decide (t.handsets.records[(9 : Fin 16)].quietCount = 1) && decide (t.handsets.records[(9 : Fin 16)].state = .barred)) = true := by
  decide +kernel

/-- R168: the decrement that leaves R at 300. -/
theorem test_room_second : holds (exec .roomSecondExpiry { room 301 State.reset with timebase := 1000 }) (fun t =>
    decide (t.room = { state := .opened, remaining := 300, timer := some 1000 }) && decide (t.events = 0x8000)) = true := by
  decide +kernel

/-! ### Bands -/

/-- The worked syllables, and the worked wipes. -/
def syllables : List Syllable :=
  [⟨true, 0, 10000, 10400, 200, 320⟩, ⟨true, 0, 10400, 10400, 320, 360⟩, ⟨true, 0, 10500, 11100, 380, 560⟩,
    ⟨true, 0, 11100, 11600, 600, 590⟩, ⟨true, 0, 11700, 12300, 620, 800⟩]

theorem test_wipe : [9900, 10100, 10400, 10450, 10800, 11300, 11650, 12000, 12300].map (fun t => wipeOf t syllables) =
    [200, 230, 360, 360, 470, 600, 600, 710, 800] := by decide +kernel

theorem test_scroll_and_blend : scrollOffset 48 4300 300 (some { start := 4133, blankBelow := false }) = 26 ∧
    paintPixel (.blend ⟨0, 220, 255⟩ 2) 0xFFC83C28 = 0xFFEDA70D ∧ paintPixel (.blend ⟨255, 255, 255⟩ 1) 0xFFC83C28 = 0xFFDA7D70 := by
  decide

/-! ### Witnesses: the bus path -/

theorem witness_StepRunsFrontCommand :
    ({ State.reset with pending := [.runForward, .coldReset] }).pending = .runForward :: [.coldReset] := rfl

/-- A song whose stall timer has just run out. -/
def stalling : State := { song .running State.reset with timebase := 250 }

/-- Every interval timer but the stall timer, an estimate of channel 3 and a posting, all begun at 0, at a time. -/
def timers (now : Count32) : State :=
  let s := room 60 (handset 9 .barred 256 (handset 4 .held 130 State.reset))
  { s with
    timebase := now
    flights := setAt s.flights 3 (some
      { samples := [], position := 0, state := .idle, epoch := 0, voicing := 0, folding := false, start := 0 })
    score := { s.score with posting := some { outcome := .stopped, start := 0 } } }

theorem witness_IdleStepTakesDueEventOrTicks :
    (State.reset.pending = [] ∧ dueNow State.reset = [] ∧ stalling.pending = [] ∧ dueNow stalling = [.stallTimerExpiry]) ∧
      dueNow { stalling with timebase := 249 } = [] ∧
      (.roomSecondExpiry ∉ dueNow (timers 999) ∧ .roomSecondExpiry ∈ dueNow (timers 1000)) ∧
      (.quietIntervalExpiry 9 ∉ dueNow (timers 9999) ∧ .quietIntervalExpiry 9 ∈ dueNow (timers 10000)) ∧
      (.presenceExpiry 4 ∉ dueNow (timers 899999) ∧ .presenceExpiry 4 ∈ dueNow (timers 900000)) ∧
      (.estimatePosting 3 ∉ dueNow (timers 31) ∧ .estimatePosting 3 ∈ dueNow (timers 32) ∧
        .estimatePosting 3 ∉ dueNow { timers 32 with busResetLow := true }) ∧
      (.resultPostingComplete ∉ dueNow (timers 0) ∧ .resultPostingComplete ∈ dueNow (timers 1)) := by
  decide +kernel

theorem witness_WellFormedCommandsRun :
    (Instr.requestAccept { addr := 0xFFFFFFF8, dir := .read, beats := 16, tag := 15 }).wellFormed = true ∧
      (Instr.packetUnknownKind (head 15) 5).wellFormed = true ∧ (Instr.unknown slot 0x02).wellFormed = true ∧
      (1 : Addr).toNat % 8 ≠ 0 ∧ (7 : Addr).toNat % 8 ≠ 0 ∧ 16 < 17 ∧ (0x01 : Byte) ∈ commandCodes ∧
      (0x52 : Byte) ∈ commandCodes ∧ (4 : Byte).toNat ≤ 4 := by decide

/-- The two windows below a memory top of 1024 MiB. -/
def topped : Anchor := (shadow 0x100 [0, 4] twoWindows).anchor

theorem witness_MatchTakesChecksInOrder :
    memoryTop topped.bytes = 1024 ∧ (0x40000000 : Addr).toNat = 1024 * 1048576 ∧
      (anchorBase 0 ≤ 0x0FFFF000 ∧ (0x0FFFF000 : Addr) ≤ anchorBase 0 + 0xFFF) ∧
      (anchorBase 0 ≤ 0x0FFFFFF8 ∧ (0x0FFFFFF8 : Addr) ≤ anchorBase 0 + 0xFFF) ∧
      topped.covers 0x20000000 1 = true ∧ topped.covers 0x20000FF8 1 = true ∧ topped.covers 0x20001000 1 = false ∧
      topped.covers 0x1FFFFFF8 1 = false ∧ topped.covers 0x20000FF8 0 = false ∧
      topped.covers 0x20001000 2 = true ∧ topped.covers 0x2000FFF8 2 = true ∧
      (∀ j : Fin 16, j < 2 → topped.covers 0x20001000 j = false) ∧ (∀ j : Fin 16, topped.covers 0x20010000 j = false) ∧
      (entryMask topped.bytes 2).getLsbD 0 = true ∧ (entryMask topped.bytes 2).getLsbD 15 = false ∧
      entryGuard topped.bytes 2 = true := by decide +kernel

/-- Seven reads that have been completed and wait to leave. -/
def sevenListed : State :=
  { twoWindows with bus := { twoWindows.bus with list := (List.replicate 7
      { serial := 0, request := requestA, beats := [], runs := [], taken := [] }) } }

theorem witness_AcceptFixesEveryTreatment :
    requestA.addr.toNat % 8 = 0 ∧ requestA.beats = 16 ∧ requestB.addr.toNat % 8 = 0 ∧ 1 ≤ requestB.beats ∧
      sevenListed.busUp = true ∧ sevenListed.bus.held = none ∧ sevenListed.bus.list.length < 8 ∧
      sevenListed.bus.awaitsData = false ∧
      matchBeat 0 sevenListed.anchor .read 0 0x20000FC0 = .window { index := 1, base := 0x20000000, sizeCode := 0 } .view 0 := by
  decide +kernel

/-- A legal request to an empty completion list outside a reset is acceptable. -/
theorem acceptable {r : BusRequest} {s : State}
    (h : r.addr.toNat % 8 = 0 ∧ 1 ≤ r.beats ∧ r.beats ≤ 16 ∧ s.resetLow = false ∧ s.busResetLow = false ∧ s.bus.held = none ∧
      s.bus.list = []) : Acceptable r s := by
  obtain ⟨h1, h2, h3, h4, h5, h6, h7⟩ := h
  exact ⟨h1, h2, h3, h4, h5, h6, by simp [h7], by simp [h7]⟩

theorem witness_RunsCoverForwardedBeats :
    Acceptable requestA twoWindows ∧ Acceptable { addr := 0xFFFFFFF0, dir := .read, beats := 5, tag := 0 } State.reset ∧
      holds (exec (.requestAccept { addr := 0xFFFFFFF0, dir := .read, beats := 5, tag := 0 }) State.reset) (fun t =>
        decide (t.bus.list.map Listed.runs = [[⟨0, 2, .waiting⟩, ⟨2, 3, .waiting⟩]])) = true ∧
      runsFrom 0 none [⟨0xFFFFFFF8, .pass⟩, ⟨0, .pass⟩, ⟨8, .snoop .anchor⟩, ⟨16, .block⟩, ⟨24, .pass⟩] =
        [⟨0, 1, .waiting⟩, ⟨1, 2, .waiting⟩, ⟨4, 1, .waiting⟩] :=
  ⟨acceptable (by decide +kernel), acceptable (by decide +kernel), by decide +kernel, by decide +kernel⟩

theorem witness_AcceptRecordsBlockedBeats :
    twoWindows.busUp = true ∧ twoWindows.bus.held = none ∧ twoWindows.bus.list.length < 8 ∧ twoWindows.bus.awaitsData = false ∧
      holds (exec (.requestAccept requestB) twoWindows) (fun _ => true) = true ∧
      matchBeat 0 twoWindows.anchor .write 6 (requestB.addr + BitVec.ofNat 32 (8 * 3)) = .block .guard ∧
      matchBeat 0 twoWindows.anchor .write 0 0x20010000 = .pass ∧
      matchBeat 0 topped .read 0 0x40000000 = .block .memoryTop ∧
      (matchBeat 0 twoWindows.anchor .read 0 requestA.addr).reachesBlock = false := by decide +kernel

/-- A full completion list whose oldest request can leave, with a request held. -/
def fullList : State :=
  { sevenListed with bus := { sevenListed.bus with
      held := some requestA
      list := List.replicate 8 { serial := 0, request := requestA, beats := [], runs := [], taken := [] } } }

/-- An open one-beat write of a beat, with request A held behind it. -/
def heldBehind (b : Beat) : State :=
  { writing b State.reset with bus := { (writing b State.reset).bus with held := some requestA } }

theorem witness_UnacceptedRequestIsHeldOrTurnedAway :
    (fullList.busUp = true ∧ fullList.bus.list.length = 8 ∧ fullList.bus.held = some requestA) ∧
      (writing enableBeat State.reset).bus.awaitsData = true ∧ (writing enableBeat State.reset).bus.held = none ∧
      ({ State.reset with resetLow := true }).busUp = false ∧ ({ State.reset with busResetLow := true }).busUp = false ∧
      (∃ l rest, fullList.bus.list = l :: rest ∧ l.finished = true ∧ rest.length < 8 ∧
        { fullList.bus with list := rest }.awaitsData = false) ∧
      ∀ b : Beat, (heldBehind b).busUp = true ∧ (heldBehind b).bus.held = some requestA ∧
        (∃ l, (heldBehind b).bus.list = [] ++ [l] ∧ l.request.dir = .write ∧ l.beats.length = l.taken.length + 1 ∧
          l.beats[l.taken.length]? = some b) :=
  ⟨by decide +kernel, by decide +kernel, rfl, rfl, rfl, ⟨_, _, rfl, by decide +kernel, by decide +kernel, by decide +kernel⟩,
    fun _ => ⟨rfl, rfl, _, rfl, rfl, rfl, rfl⟩⟩

/-- R1: the held read is accepted with the last data beat of the write before it, snooped or not. -/
theorem witness_UnacceptedRequestIsHeldOrTurnedAway_accepted :
    holds (exec (.writeBeatDataTaken 1 1) (heldBehind enableBeat)) (fun t =>
      decide (t.bus.list.map (fun l => l.request.dir) = [.write, .read]) && decide (t.bus.held = none)) = true ∧
    holds (exec (.writeBeatDataTaken 1 1) (heldBehind ⟨8, .pass⟩)) (fun t =>
      decide (t.bus.list.map (fun l => l.request.dir) = [.write, .read]) && decide (t.bus.held = none)) = true := by
  decide +kernel

/-! ### Witnesses: write beats -/

/-- A beat of the anchor page at a page offset. -/
def anchorBeatAt (off : Nat) : Beat := { addr := 0x0FFFF000 + BitVec.ofNat 32 off, treatment := .snoop .anchor }

/-- The shadow with its lock set. -/
def locked : State := shadow 0x102 [1] State.reset

theorem witness_AnchorWritesAndLock :
    TakesData (writing (anchorBeatAt 0x1F8) locked) (anchorBeatAt 0x1F8) 1 1 (written (anchorBeatAt 0x1F8) 1 1 locked) ∧
      lockSet locked.anchor.bytes = true ∧ (anchorBeatAt 0x1F8).addr.toNat % 4096 < 0x200 ∧
      ¬ (anchorBeatAt 0x200).addr.toNat % 4096 < 0x200 ∧
      TakesData (writing (anchorBeatAt 0x1F8) twoWindows) (anchorBeatAt 0x1F8) 1 1 (written (anchorBeatAt 0x1F8) 1 1 twoWindows) ∧
      ((anchorBeatAt 0x1F8).addr.toNat % 8 = 0 ∧ lockSet twoWindows.anchor.bytes = false ∧ twoWindows.anchor.bytes.wf = true) ∧
      TakesData (writing (anchorBeatAt 0x148) (timers 60000)) (anchorBeatAt 0x148) 1 1
        (written (anchorBeatAt 0x148) 1 1 (timers 60000)) ∧
      (0x100 ≤ (anchorBeatAt 0x148).addr.toNat % 4096 ∧ lockSet (timers 60000).anchor.bytes = false ∧
        (timers 60000).anchor.bytes.wf = true) ∧
      holds (exec (.writeBeatDataTaken 1 1) (writing (anchorBeatAt 0x148) (timers 60000))) (fun t =>
        decide (presenceMinutes t.anchor.bytes = 1) && decide ((t.handsets.records[(4 : Fin 16)]).state = .absent) &&
          decide ((t.handsets.records[(9 : Fin 16)]).state = .barred) && decide (t.events = 0x1000)) = true ∧
      holds (exec (.writeBeatDataTaken 1 1) (writing (anchorBeatAt 0x148) (timers 59999))) (fun t =>
        decide ((t.handsets.records[(4 : Fin 16)]).state = .held) && decide (t.events = 0)) = true :=
  ⟨takes _ _ _ _, by decide +kernel, by decide +kernel, by decide +kernel, takes _ _ _ _, by decide +kernel, takes _ _ _ _,
    by decide +kernel, by decide +kernel, by decide +kernel⟩

theorem witness_TouchedEntryIsCheckedOrDisabled :
    TakesData (writing (anchorBeatAt 0) twoWindows) (anchorBeatAt 0) 0 1 (written (anchorBeatAt 0) 0 1 twoWindows) ∧
      (anchorBeatAt 0).addr.toNat % 8 = 0 ∧ (anchorBeatAt 0).addr.toNat % 4096 / 16 = (0 : Fin 16).val ∧
      (anchorBeatAt 0xF8).addr.toNat % 4096 / 16 = (15 : Fin 16).val ∧ lockSet twoWindows.anchor.bytes = false ∧
      entryCheck 0 twoWindows.anchor.bytes 2 = true ∧ entryCheck 0 (topAndHalfEntry 0x1FFF0000 5).anchor.bytes 3 = false :=
  ⟨takes _ _ _ _, by decide +kernel⟩

/-- A window of 8 KiB, and one of 256 KiB. -/
def win8K : Win := { index := 4, base := 0x22000000, sizeCode := 1 }
def win256K : Win := { index := 4, base := 0x22000000, sizeCode := 6 }

/-- A beat of that window at an offset. -/
def beatAt (dest : Dest) (off : Nat) : Beat := { addr := 0x22000000 + BitVec.ofNat 32 off, treatment := .snoop dest }

theorem witness_WriteBeatsReachTheirTables :
    TakesData (writing ⟨8, .block⟩ State.reset) ⟨8, .block⟩ 1 1 (written ⟨8, .block⟩ 1 1 State.reset) ∧
      TakesData (writing (beatAt (.timeline win8K) 0x1FF8) State.reset) (beatAt (.timeline win8K) 0x1FF8) 1 1
        (written (beatAt (.timeline win8K) 0x1FF8) 1 1 State.reset) ∧
      TakesData (writing (beatAt (.melody win8K) 0x1FF8) State.reset) (beatAt (.melody win8K) 0x1FF8) 1 1
        (written (beatAt (.melody win8K) 0x1FF8) 1 1 State.reset) ∧
      win8K.offset (beatAt (.melody win8K) 0x1FF8).addr % 8 = 0 ∧ State.reset.melody.wf = true ∧
      State.reset.lyrics.timeline.wf = true ∧
      holds (exec (.writeBeatDataTaken 0x99 1) (writing (beatAt (.melody win8K) 0x1FF8) State.reset))
        (fun t => decide (t.melody = [(0x1FF8, 0x99)])) = true :=
  ⟨takes _ _ _ _, takes _ _ _ _, takes _ _ _ _, by decide +kernel⟩

/-- Buffer 3 in a state. -/
def strip (st : StripState) : State :=
  { State.reset with lyrics := { Lyrics.reset with strips := (setAt Lyrics.reset.strips 3 { state := st, bytes := [] }) } }

/-- Buffer 3 with a whole header of line 5: one syllable, in slot 511, of part A; its complete flag is not yet set. -/
def goodStrip : State :=
  { State.reset with lyrics := { Lyrics.reset with
      timeline := putBytes [] (16 * 511) [1, 0, 5, 0]
      strips := (setAt Lyrics.reset.strips 3 { state := .loading, bytes := putBytes [] 0 [5, 0, 0xFF, 1, 1, 1] }) } }

theorem witness_StripBeatsStoreAndSubmit :
    (∀ p ∈ [56, 0x5A38], ∀ st ∈ [StripState.ready, .shown],
      TakesData (writing (beatAt (.strip win256K) (0x30000 + p)) (strip st)) (beatAt (.strip win256K) (0x30000 + p)) 0 1
          (written (beatAt (.strip win256K) (0x30000 + p)) 0 1 (strip st)) ∧
        win256K.offset (beatAt (.strip win256K) (0x30000 + p)).addr % 262144 = 65536 * (3 : Fin 4).val + p ∧ p < 65536 ∧ p % 8 = 0 ∧
        ((strip st).lyrics.strips[(3 : Fin 4)]).state = st ∧ ((strip st).lyrics.strips[(3 : Fin 4)]).bytes.wf = true ∧
        (1 : Enables).getLsbD 0 = true ∧ (0 : Data).extractLsb' 0 8 = 0 ∧
        p + 0 < 64 + (frameWidth (strip st).anchor.bytes * lineHeight (strip st).anchor.bytes + 3) / 4) ∧
      ¬ 0x5A40 + 0 < 64 + (frameWidth State.reset.anchor.bytes * lineHeight State.reset.anchor.bytes + 3) / 4 ∧
      (1 : Data).extractLsb' 0 8 ≠ 0 ∧
      TakesData (writing (beatAt (.strip win256K) 0x30038) goodStrip) (beatAt (.strip win256K) 0x30038) 1 1
        (written (beatAt (.strip win256K) 0x30038) 1 1 goodStrip) ∧
      StripPasses goodStrip.lyrics 3 ∧ ¬ StripPasses (strip .loading).lyrics 3 := by
  refine ⟨fun p hp st hst => ⟨takes _ _ _ _, ?_⟩, by decide +kernel, by decide, takes _ _ _ _, ⟨?_, ?_, ?_, ?_, ?_, ?_⟩, fun h => ?_⟩
  · have h : ∀ p ∈ [56, 0x5A38], ∀ st ∈ [StripState.ready, .shown],
        win256K.offset (beatAt (.strip win256K) (0x30000 + p)).addr % 262144 = 65536 * (3 : Fin 4).val + p ∧ p < 65536 ∧ p % 8 = 0 ∧
        ((strip st).lyrics.strips[(3 : Fin 4)]).state = st ∧ ((strip st).lyrics.strips[(3 : Fin 4)]).bytes.wf = true ∧
        (1 : Enables).getLsbD 0 = true ∧ (0 : Data).extractLsb' 0 8 = 0 ∧
        p + 0 < 64 + (frameWidth (strip st).anchor.bytes * lineHeight (strip st).anchor.bytes + 3) / 4 := by decide +kernel
    exact h p hp st hst
  · decide +kernel
  · decide +kernel
  · decide +kernel
  · have h : ∀ j, j < ((goodStrip.lyrics.strips[(3 : Fin 4)]).bytes.read 4).toNat →
        j < ((goodStrip.lyrics.strips[(3 : Fin 4)]).bytes.read 4).toNat ∧
          goodStrip.lyrics.timeline.read (rangeSlot goodStrip.lyrics 3 j) ≠ 0 ∧
          word16 goodStrip.lyrics.timeline (rangeSlot goodStrip.lyrics 3 j + 2) = stripLine goodStrip.lyrics 3 := by decide +kernel
    exact h
  · have h : ∀ j, ¬ j + 1 < 1 := by omega
    have one : ((goodStrip.lyrics.strips[(3 : Fin 4)]).bytes.read 4).toNat = 1 := by decide +kernel
    exact fun j hj => absurd (one ▸ hj) (h j)
  · decide +kernel
  · have h1 : 1 ≤ (((strip .loading).lyrics.strips[(3 : Fin 4)]).bytes.read 4).toNat := h.2.1.1
    revert h1; decide +kernel

/-- R59, R60: a complete header turns READY and an empty one FREE with STRIP_REJECTED; a flag written 0 releases a READY
buffer, a coverage byte does not, and a SHOWN buffer takes nothing. -/
theorem witness_StripBeatsStoreAndSubmit_states :
    holds (exec (.writeBeatDataTaken 1 1) (writing (beatAt (.strip win256K) 0x30038) goodStrip))
      (fun t => decide (t.lyrics.strips[(3 : Fin 4)].state = .ready) && decide (t.events = 0)) = true ∧
    holds (exec (.writeBeatDataTaken 1 1) (writing (beatAt (.strip win256K) 0x30038) (strip .loading)))
      (fun t => decide (t.lyrics.strips[(3 : Fin 4)].state = .free) && decide (t.events = 0x100)) = true ∧
    holds (exec (.writeBeatDataTaken 0 1) (writing (beatAt (.strip win256K) 0x30038) (strip .ready)))
      (fun t => decide (t.lyrics.strips[(3 : Fin 4)].state = .loading)) = true ∧
    holds (exec (.writeBeatDataTaken 7 1) (writing (beatAt (.strip win256K) 0x35A38) (strip .ready)))
      (fun t => decide (t.lyrics.strips[(3 : Fin 4)] = { state := .ready, bytes := [(0x5A38, 7)] })) = true ∧
    holds (exec (.writeBeatDataTaken 1 1) (writing (beatAt (.strip win256K) 0x30038) (strip .shown)))
      (fun t => decide (t.lyrics.strips[(3 : Fin 4)] = { state := .shown, bytes := [] })) = true := by decide +kernel

/-- Channel 2's framer as given. -/
def framer (e : Option (Fin 16 × Addr)) (n : Nat) : State :=
  { State.reset with framers := setAt State.reset.framers 2 { expected := e, samples := List.replicate n 7, gaps := 65535 } }

/-- A capture beat of channel 2 at the window's last address. -/
def captureAt : Beat := beatAt (.capture 2 win8K) 0x1FF8

/-- Channel 2's framer one beat short of a frame, its CAPTURE entry 4 live. -/
def filling : State :=
  { window 4 0x22000000 1 1 5 2 0 State.reset with framers := (framer (some (4, captureAt.addr)) 508).framers }

theorem witness_CaptureBeatsFillFrames :
    TakesData (writing captureAt (framer (some (4, captureAt.addr)) 504)) captureAt 0 0xFF
        (written captureAt 0 0xFF (framer (some (4, captureAt.addr)) 504)) ∧
      ((framer (some (4, captureAt.addr)) 504).framers[(2 : Fin 4)]).samples.length < 508 ∧
      TakesData (writing captureAt (framer none 0)) captureAt 0 0xFF (written captureAt 0 0xFF (framer none 0)) ∧
      TakesData (writing captureAt (framer (some (5, 0)) 0)) captureAt 0 0x0F (written captureAt 0 0x0F (framer (some (5, 0)) 0)) ∧
      TakesData (writing captureAt filling) captureAt 0 0xFF (written captureAt 0 0xFF filling) ∧
      ((filling.framers[(2 : Fin 4)]).expected = some (win8K.index, captureAt.addr) ∧
        (filling.framers[(2 : Fin 4)]).samples.length = 508 ∧ filling.busUp = true ∧ filling.anchor.window win8K.index = win8K ∧
        filling.flights[(2 : Fin 4)] = none) ∧
      CaptureCanCome filling 2 win8K.index captureAt.addr :=
  ⟨takes _ _ _ _, by decide +kernel, takes _ _ _ _, takes _ _ _ _, takes _ _ _ _, by decide +kernel,
    (captureCanCome_iff _ _ _ _).1 (by decide +kernel)⟩

/-- R97, R98: a gap at the saturated count, and the beat that completes a frame. -/
theorem witness_CaptureBeatsFillFrames_beats :
    holds (exec (.writeBeatDataTaken 0 0xFF) (writing captureAt (framer (some (5, 0)) 9))) (fun t =>
      decide (t.framers[(2 : Fin 4)] = { expected := some (4, 0x22000000), samples := [0, 0, 0, 0], gaps := 65535 })) = true ∧
    holds (exec (.writeBeatDataTaken 0 0xFF) (writing captureAt filling)) (fun t =>
      decide (t.framers[(2 : Fin 4)] = { expected := some (4, 0x22000000), samples := [], gaps := 65535 }) &&
        decide ((t.flights[(2 : Fin 4)]).map (fun f => f.samples.length) = some 512)) = true := by decide +kernel

theorem witness_FrameCompletionBeginsEstimate :
    framing.busUp = true ∧ (framing.framers[(1 : Fin 4)]).expected = some (9, 0x26000480) ∧
      (framing.framers[(1 : Fin 4)]).samples.length = 508 ∧ framing.flights[(1 : Fin 4)] = none ∧
      (framing.framers[(0 : Fin 4)]).expected = none ∧
      ({ framing with flights := setAt framing.flights 1 (some (framing.flightOf [])) }).flights[(1 : Fin 4)] =
        some (framing.flightOf []) ∧
      CaptureCanCome framing 1 9 0x26000480 :=
  ⟨by decide +kernel, by decide +kernel, by decide +kernel, by decide +kernel, by decide +kernel, by decide +kernel,
    (captureCanCome_iff _ _ _ _).1 (by decide +kernel)⟩

/-- That framer after entry 9 has become a STRIP window, and after it has moved 4 KiB up. -/
def retyped : State := window 9 0x26000000 1 0 2 1 0 framing
def moved : State := window 9 0x26001000 1 0 5 1 0 framing

/-- R179: at the window's last beat a frame can still complete, and just above it, under another role, in a window that has
moved away or is not live, it cannot: the framer keeps its frame. -/
theorem witness_FrameCompletionBeginsEstimate_changed :
    captureCanCome 1 9 0x26000FF8 framing = true ∧ captureCanCome 1 9 0x26001000 framing = false ∧
      captureCanCome 0 9 0x26000480 framing = false ∧
      ¬ CaptureCanCome retyped 1 9 0x26000480 ∧ ¬ CaptureCanCome moved 1 9 0x26000480 ∧
      (∀ u ∈ [retyped, moved, { framing with anchor := { framing.anchor with live := 0 } }],
        holds (exec (.frameComplete 1 7) u) (fun t => decide (t.framers = framing.framers ∧ t.flights = framing.flights)) = true) :=
  ⟨by decide +kernel, by decide +kernel, by decide +kernel, mt (captureCanCome_iff _ _ _ _).2 (by decide +kernel),
    mt (captureCanCome_iff _ _ _ _).2 (by decide +kernel), by decide +kernel⟩

/-- A COMMAND beat of the 8 KiB window. -/
def commandAt (off : Nat) : Beat := beatAt (.command win8K) off

/-- Room 2400 with a first half of slot 1FF0h pending. -/
def halfPending : State := setFirstHalf (some { entry := 4, slot := 0x1FF0, data := 0x2A11 }) (song .loaded State.reset)

theorem witness_CommandBeatZeroIsFirstHalf :
    TakesData (writing (commandAt 0x1FF0) State.reset) (commandAt 0x1FF0) 0x2A11 0xFF (written (commandAt 0x1FF0) 0x2A11 0xFF State.reset) ∧
      win8K.offset (commandAt 0x1FF0).addr % 16 = 0 ∧ win8K.offset (commandAt 0x1FF8).addr % 16 = 8 ∧
      State.reset.intake.firstHalf = none ∧
      TakesData (writing (commandAt 0x1FF8) State.reset) (commandAt 0x1FF8) 0 0x0F (written (commandAt 0x1FF8) 0 0x0F State.reset) :=
  ⟨takes _ _ _ _, by decide +kernel, by decide +kernel, rfl, takes _ _ _ _⟩

theorem witness_CommandBeatOneDecides :
    TakesData (writing (commandAt 0x1FF8) halfPending) (commandAt 0x1FF8) 0 0xFF (written (commandAt 0x1FF8) 0 0xFF halfPending) ∧
      halfPending.busUp = true ∧ win8K.offset (commandAt 0x1FF8).addr % 16 = 8 ∧
      halfPending.intake.firstHalf = some { entry := 4, slot := BitVec.ofNat 32 (win8K.offset (commandAt 0x1FF8).addr - 8), data := 0x2A11 } ∧
      (0x2A11 : Data).extractLsb' 0 8 ≠ 0 ∧ (0x2A00 : Data).extractLsb' 0 8 = 0 ∧
      BitVec.ofNat 32 (win8K.offset (commandAt 0x1FE8).addr - 8) ≠ (0x1FF0 : Addr) ∧
      holds (exec (.writeBeatDataTaken 0 0xFF) (writing (commandAt 0x1FF8) halfPending)) (fun t => decide (t.clock.state = .armed)) = true :=
  ⟨takes _ _ _ _, by decide +kernel⟩

/-- Three beats of a QUERY of handset 15, whose check byte makes the sum 0 with `0xED` in beat 3. -/
def threeBeats : State :=
  { room 2400 State.reset with parser := { State.reset.parser with
      assembly := some { entry := 4, slot := 0x1FE0, beats := [0x0F04, 0, 0] } } }

theorem witness_PacketLastBeatHandsOver :
    TakesData (writing (beatAt (.receive win8K) 0x1FF8) threeBeats) (beatAt (.receive win8K) 0x1FF8) 0xED00000000000000 0xFF
        (written (beatAt (.receive win8K) 0x1FF8) 0xED00000000000000 0xFF threeBeats) ∧
      threeBeats.busUp = true ∧ win8K.offset (beatAt (.receive win8K) 0x1FF8).addr % 32 = 24 ∧
      threeBeats.parser.assembly =
        some { entry := 4, slot := BitVec.ofNat 32 (win8K.offset (beatAt (.receive win8K) 0x1FF8).addr - 24), beats := [0x0F04, 0, 0] } ∧
      ((0x0F04 : Data).extractLsb' 0 8 ≠ 0 ∧ ¬ 15 < ((0x0F04 : Data).extractLsb' 8 8).toNat ∧
        15 < ((0x1004 : Data).extractLsb' 8 8).toNat) ∧ State.reset.parser.assembly = none ∧
      TakesData (writing (beatAt (.receive win8K) 0x1FE0) State.reset) (beatAt (.receive win8K) 0x1FE0) 0 0xFF
        (written (beatAt (.receive win8K) 0x1FE0) 0 0xFF State.reset) ∧
      win8K.offset (beatAt (.receive win8K) 0x1FE0).addr % 32 / 8 = 0 ∧
      BitVec.ofNat 32 (32 * (win8K.offset (beatAt (.receive win8K) 0x1FF8).addr / 32)) = (0x1FE0 : Addr) :=
  ⟨takes _ _ _ _, by decide +kernel, by decide +kernel, by decide +kernel, by decide, rfl, takes _ _ _ _, by decide +kernel,
    by decide +kernel⟩

/-- The rows of R132 on no assembly: start, and ignored. On two beats held: extend, abandon and start, abandon. -/
theorem witness_PacketLastBeatHandsOver_rows :
    let held : State := { State.reset with parser := { garbled := 65534, assembly := some { entry := 4, slot := 0x1FE0, beats := [1, 2] } } }
    let gives := fun (s : State) (off : Nat) (en : Enables) (beats : Option (List Data)) (garbled : Nat) =>
      holds (exec (.writeBeatDataTaken 7 en) (writing (beatAt (.receive win8K) off) s)) (fun t =>
        decide (t.parser.assembly.map Assembly.beats = beats) && decide (t.parser.garbled = garbled))
    (gives State.reset 0x1FE0 0xFF (some [7]) 0 && gives State.reset 0x1FE8 0xFF none 0 && gives State.reset 0x1FE0 0x7F none 0 &&
      gives held 0x1FF0 0xFF (some [1, 2, 7]) 65534 && gives held 0x1FE0 0xFF (some [7]) 65535 &&
      gives held 0x1FE8 0xFF none 65535 && gives held 0x1FD0 0xFF none 65535 && gives held 0x1FF0 0xFE none 65535) = true := by
  decide +kernel

/-- R134: the three beats with a good and a bad check byte. -/
theorem witness_PacketLastBeatHandsOver_check :
    holds (exec (.writeBeatDataTaken 0xED00000000000000 0xFF) (writing (beatAt (.receive win8K) 0x1FF8) threeBeats)) (fun t =>
      decide (t.handsets.records[(15 : Fin 16)].reply.outcome = .queryOk) && decide (t.parser.garbled = 0)) = true ∧
    holds (exec (.writeBeatDataTaken 0xEE00000000000000 0xFF) (writing (beatAt (.receive win8K) 0x1FF8) threeBeats)) (fun t =>
      decide (t.parser.garbled = 1)) = true := by decide +kernel

/-! ### Witnesses: the D port, completions, resets -/

theorem witness_OldestRunIsForwarded :
    ∃ l r, reading.bus.list = [] ++ l :: [] ∧ l.runs = [] ++ r :: [] ∧ r.status = .waiting ∧ l.request.dir = .read :=
  ⟨_, _, rfl, rfl, rfl, rfl⟩

/-- The decidable form of BusSound. -/
theorem busSound {s : State}
    (h : s.bus.list.length ≤ 8 ∧ (∀ l ∈ s.bus.list, l.beats.length = l.request.beats ∧ l.taken.length ≤ l.beats.length) ∧
      (∀ l ∈ s.bus.list.dropLast, l.dataTaken = true) ∧ (s.bus.list.map Listed.serial).Nodup ∧
      (∀ l ∈ s.bus.list, l.serial < s.bus.nextSerial) ∧
      ∀ d ∈ s.bus.dPort, d.owner.all (fun o => decide (o.1 < s.bus.nextSerial)) = true) : BusSound s := by
  obtain ⟨h1, h2, h3, h4, h5, h6⟩ := h
  refine ⟨h1, h2, h3, h4, h5, fun d hd serial k ho => ?_⟩
  simpa [ho] using h6 d hd

/-- A read of serial `n` whose two runs, around a blocked beat, are at the D port. -/
def twoRuns (n : Nat) : Listed :=
  { serial := n, request := { addr := 0x20001000, dir := .read, beats := 3, tag := 3 }
    beats := [{ addr := 0x20001000, treatment := .pass }, { addr := 0x20001008, treatment := .block },
      { addr := 0x20001010, treatment := .pass }]
    runs := [{ first := 0, count := 1, status := .forwarded }, { first := 2, count := 1, status := .forwarded }], taken := [] }

/-- Three such requests, and three D-port runs: an abandoned one, the second of serial 1, and one of a request that has
left. -/
def crowded : State :=
  let run := fun o : Option (Nat × Nat) =>
    ({ owner := o, dir := .read, tag := 3, addr := 0x20001010, count := 1, data := [] } : DPortRun)
  { State.reset with bus := { State.reset.bus with
      nextSerial := 10, list := [twoRuns 0, twoRuns 1, twoRuns 2], dPort := [run none, run (some (1, 1)), run (some (9, 0))] } }

theorem witness_RunCompletionIsRecorded :
    ∃ p l x y r q, crowded.bus.dPort[1]? = some p ∧ [(0x1122 : Data)].length = (if p.dir = .read then p.count else 0) ∧
      p.owner = some (1, 1) ∧ crowded.bus.list = [x] ++ l :: [y] ∧ (∀ z ∈ [x] ++ [y], z.serial ≠ 1) ∧ l.serial = 1 ∧
      l.runs = [r] ++ q :: [] ∧ [r].length = 1 ∧ crowded.bus.dPort[0]? = some { p with owner := none } ∧
      crowded.bus.dPort[2]? = some { p with owner := some (9, 0) } ∧ (∀ z ∈ crowded.bus.list, z.serial ≠ 9) ∧
      ([] : List Data).length ≠ (if p.dir = .read then p.count else 0) ∧ crowded.bus.dPort[3]? = none ∧ BusSound crowded := by
  refine ⟨_, _, _, _, _, _, rfl, rfl, rfl, rfl, by decide, rfl, rfl, rfl, rfl, rfl, by decide, by decide, rfl, busSound (by decide)⟩

/-- R3: the run of the second request is recorded with it and no other; the ownerless completions are dropped; one without
its data is turned away. -/
theorem witness_RunCompletionIsRecorded_owner :
    holds (exec (.runCompletion 1 true [0x1122]) crowded) (fun t =>
      decide (t.bus.list.map (fun l => l.runs.map Run.status) =
          [[.forwarded, .forwarded], [.forwarded, .completed true [0x1122]], [.forwarded, .forwarded]]) &&
        decide (t.bus.dPort.map DPortRun.owner = [none, some (9, 0)])) = true ∧
    holds (exec (.runCompletion 2 true [0x1122]) crowded) (fun t =>
      decide (t.bus.list = crowded.bus.list) && decide (t.bus.dPort.length = 2)) = true ∧
    holds (exec (.runCompletion 1 true []) crowded) (fun t => decide (t = crowded)) = true := by decide +kernel

/-- A read of five beats, two of them in its first run, that can leave. -/
def leaving : State :=
  { State.reset with bus := { State.reset.bus with
      nextSerial := 1
      list := [{ serial := 0, request := { addr := 0, dir := .read, beats := 5, tag := 3 }
                 beats := [⟨0, .pass⟩, ⟨8, .transform (.solid ⟨1, 2, 3⟩) .pass⟩, ⟨0x10, .answer 0x99⟩, ⟨0x18, .pass⟩, ⟨0x20, .block⟩]
                 runs := [⟨0, 2, .completed false [0x11, 0x22]⟩, ⟨3, 1, .completed false [0x33]⟩], taken := [] }] } }

theorem witness_OldestRequestCompletes :
    ∃ l, leaving.bus.list = l :: [] ∧ leaving.bus.held = none ∧ (∀ r ∈ l.runs, ∃ f x, r.status = .completed f x) ∧
      l.request.dir = .read ∧ l.beats[3]? = some { addr := 0x18, treatment := .pass } ∧
      l.runs = [⟨0, 2, .completed false [0x11, 0x22]⟩] ++ ⟨3, 1, .completed false [0x33]⟩ :: [] ∧ 0 + 2 ≤ 3 ∧
      ([0x33] : List Data)[3 - 3]? = some 0x33 := by
  refine ⟨_, rfl, rfl, ?_, rfl, rfl, rfl, by decide, rfl⟩
  intro r hr
  simp only [List.mem_cons, List.not_mem_nil, or_false] at hr
  rcases hr with rfl | rfl <;> exact ⟨_, _, rfl⟩

/-- R3, R10: memory's data for the passed beats, the transformed one drawn, the answer, and zeros for the block, with FAULT. -/
theorem witness_OldestRequestCompletes_data : holds (exec .completionLeave leaving) (fun t =>
    decide (t.bus.uPort.map Completion.data = some [0x11, 0x00030201, 0x99, 0x33, 0]) &&
      decide (t.bus.uPort.map Completion.fault = some true)) = true := by decide +kernel

theorem witness_ColdResetRestoresEveryBlock : ({ State.reset with resetLow := true }).resetLow = true := rfl

/-! ### Witnesses: commands, events, views -/

theorem witness_EventFlagsRaisedAndAcknowledged :
    State.reset.busUp = true ∧ Event.windowFault ≠ Event.roomTimeLow ∧ (0x8000 : Set16).getLsbD 15 = true := by decide

theorem witness_HighestPendingAndLines :
    let s : State := { pointers with events := 0x8004 }
    (s.events.getLsbD 2 = true ∧ s.enables.getLsbD 2 = true ∧
      ∀ k, k < 2 → ¬ (s.events.getLsbD k = true ∧ s.enables.getLsbD k = true)) ∧
    ∀ k, k < 16 → ¬ (({ pointers with events := 0x0200 }).events.getLsbD k = true ∧
      ({ pointers with events := 0x0200 }).enables.getLsbD k = true) := by decide +kernel

theorem witness_CommandsRecordAndRefusalsChangeNothing :
    (0xFF : Byte) ≠ 0 ∧ (0xFF : Byte) ∉ commandCodes ∧ State.reset.busUp = true ∧
      commandOf (.songStart slot) = some (slot, 0x11) ∧ (Instr.songStart slot).wellFormed = true ∧
      commandOf (.unknown slot 0x35) = some (slot, 0x35) ∧ (Instr.unknown slot 0x35).wellFormed = true := by decide

/-! ### Witnesses: the song -/

theorem witness_SongLoadChecksInOrder :
    room2400.busUp = true ∧ room2400.clock.state = .idle ∧ State.reset.queue.entries = [] ∧
      (1 ≤ loadArgs.duration.toNat ∧ loadArgs.duration.toNat ≤ 1800000 ∧ 36 ≤ loadArgs.floorNote.toNat ∧
        loadArgs.floorNote.toNat ≤ loadArgs.ceilNote.toNat ∧ loadArgs.ceilNote.toNat ≤ 84 ∧ loadArgs.source = 0) ∧
      ¬ (1800001 : BitVec 32).toNat ≤ 1800000 ∧ (song .loaded State.reset).clock.state ≠ .idle := by decide +kernel

/-- The queue of step 7 with a duration that the room time cannot carry beside the song, and two handsets' votes. -/
def votedRoom : State :=
  { room2400 with handsets := { room2400.handsets with
      records := setAt (setAt room2400.handsets.records 3 { room2400.handsets.records[(3 : Fin 16)] with vote := true }) 5
        { room2400.handsets.records[(5 : Fin 16)] with vote := true } } }

/-- R31, R137, R153: a load of 1,800 s leaves 360 s of the budget, so an entry changes state: two increments of the queue
generation, two of the handset generation for two votes, two of the status generation, and QUEUE_CHANGED. -/
theorem witness_SongLoadTakesTheSong :
    (votedRoom.clock.state = .idle ∧ loadArgs.source = 0) ∧
      (∃ e post, votedRoom.queue.entries = [] ++ e :: post ∧ e.state = .queued) ∧
      difficultyOf 2 = some .hard ∧ -6 ≤ (0xFA : Byte).toInt ∧ (0x06 : Byte).toInt ≤ 6 ∧ (999999 : BitVec 24).toNat = 999999 ∧
      holds (exec (.songLoad slot { loadArgs with duration := 1800000 }) votedRoom) (fun t =>
        decide (tagStates t = [(1, .queued), (2, .standby), (3, .standby)]) && decide (t.queue.gen = 2) &&
          decide (t.handsets.gen = 2) && decide (t.statusGen = 2) && decide (t.events = 0x4000)) = true :=
  ⟨by decide +kernel, ⟨_, _, rfl, rfl⟩, by decide, by decide, by decide, by decide, by decide +kernel⟩

theorem witness_SongStartArmsLoadedSong :
    (song .loaded State.reset).busUp = true ∧ (song .loaded State.reset).clock.state = .loaded ∧ State.reset.clock.state ≠ .loaded := by
  decide +kernel

theorem witness_SongSeekSetsPosition :
    (song .running State.reset).busUp = true ∧ (song .running State.reset).clock.state = .running ∧
      (song .stalled State.reset).clock.state = .stalled ∧ 1000 ≤ (song .running State.reset).clock.rate ∧
      (4095 : BitVec 16).toNat ≤ 4095 ∧ 4095 < (4096 : BitVec 16).toNat ∧
      (39999 : BitVec 32).toNat < (song .running State.reset).clock.duration ∧
      (40000 : BitVec 32).toNat = (song .running State.reset).clock.duration ∧ (song .armed State.reset).clock.state ≠ .running ∧
      holds (exec (.songSeek slot 40000 4095) (song .stalled State.reset)) (fun t =>
        decide (t.clock.state = .ended) && decide (t.clock.epoch = 2)) = true := by decide +kernel

theorem witness_SongStopEndsSong :
    (song .loaded State.reset).clock.state.inProgress = true ∧ (song .stalled State.reset).clock.state.inProgress = true ∧
      State.reset.clock.state = .idle ∧ (song .ended State.reset).clock.state = .ended := by decide +kernel

/-- A PLAYBACK entry 6 and the two bands' SCANOUT entry 7, live. -/
def playing : State := window 7 0x30000000 1 8 1 0 0 (window 6 0x24000000 1 1 6 0 0 (song .armed State.reset))
/-- The PLAYBACK window of entry 6. -/
def ring : Win := { index := 6, base := 0x24000000, sizeCode := 1 }

/-- A request for the last sixteen beats of that window. -/
def ringRequest : BusRequest := { addr := 0x24001F80, dir := .read, beats := 16, tag := 0 }

theorem witness_PlaybackBeatsAndStallDriveTheClock :
    Acceptable ringRequest playing ∧
      (ringRequest.dir = .read ∧ ringRequest.beats = 16 ∧
        ∀ k, k < 16 → matchBeat 0 playing.anchor .read 0 (0x24001F80 + BitVec.ofNat 32 (8 * k)) = .window ring .playback 0) ∧
      (stalling.clock.state = .running ∧ stalling.clock.stall = some 0 ∧
        stalling.clock.stallTimeout = (stalling.timebase - 0).toNat) ∧
      ({ stalling with timebase := 249 }.timebase - 0).toNat < stalling.clock.stallTimeout ∧ State.reset.clock.stall = none ∧
      (playing.clock.state = .armed ∧ ¬ playing.clock.duration ≤ (2 - playing.clock.latency) * 1000 / playing.clock.rate) ∧
      (stalling.clock.expected = none ∧ ¬ stalling.clock.duration ≤ (2 - stalling.clock.latency) * 1000 / stalling.clock.rate) ∧
      40000 ≤ (1920958 + 2 - stalling.clock.latency) * 1000 / stalling.clock.rate ∧
      (playbackBeat ring 0x24000100 { stalling with clock := { stalling.clock with expected := some (6, 0x24000080) } }).events = 0x40 ∧
      (playbackBeat ring 0x24001FF8 playing).clock.expected = some (6, 0x24000000) :=
  ⟨acceptable (by decide +kernel), by decide +kernel⟩

/-- R43, R44: the sixteen beats are 32 frames and expect the first of the window; a timer short of its timeout stays. -/
theorem witness_PlaybackBeatsAndStallDriveTheClock_request :
    holds (exec (.requestAccept ringRequest) playing) (fun t =>
      decide (t.clock.frames = 32) && decide (t.clock.state = .running) && decide (t.clock.expected = some (6, 0x24000000))) = true ∧
    holds (exec .stallTimerExpiry { stalling with timebase := 249 }) (fun t => decide (t = { stalling with timebase := 249 })) = true := by
  decide +kernel

/-! ### Witnesses: bands, estimates, scores -/

/-- The SCANOUT window of entry 7, and a request across the end of the lyric band's last row. -/
def screen : Win := { index := 7, base := 0x30000000, sizeCode := 8 }
def bandEdge : BusRequest := { addr := 0x300B3FF8, dir := .read, beats := 2, tag := 0 }

/-- A guide band of 8 rows right below the lyric band. -/
def guided : State := shadow 0x10B [8] (shadow 0x10C [96] playing)

/-- Two lines shown, the first long over, with no line to follow. -/
def lastTwo : State :=
  { playing with lyrics := { Lyrics.reset with
      strips := (setAt (setAt Lyrics.reset.strips 0 { state := .shown, bytes := [] }) 1 { state := .shown, bytes := [(0, 1)] })
      chain := [0, 1], nextLine := 2 } }

theorem witness_ScanoutBeatsLatchOnEntry :
    Acceptable bandEdge playing ∧
      (bandEdge.dir = .read ∧ bandEdge.beats = 2 ∧
        ∀ k, k < 2 → matchBeat 0 playing.anchor .read 0 (0x300B3FF8 + BitVec.ofNat 32 (8 * k)) = .window screen .scanout 0) ∧
      ((screen.base + 0xB3FF8 - screen.base).toNat / strideG playing.anchor.bytes = 95 ∧
        bandTop playing.anchor.bytes + 2 * lineHeight playing.anchor.bytes = 96) ∧
      (playing.compositor.inLyric = false ∧ playing.clock.state ≠ .idle) ∧ State.reset.clock.state = .idle ∧
      (guideTop guided.anchor.bytes = 96 ∧ guideHeight guided.anchor.bytes = 8 ∧ guided.compositor.inGuide = false ∧
        guided.clock.state ≠ .idle) ∧
      ({ guided with clock := SongClock.reset }.compositor.guideLatch = none) ∧
      (scanoutState 0 playing).compositor.lyricLatch.isSome = true ∧
      (scanoutState 0xB4000 guided).compositor.guideLatch.isSome = true ∧
      (scanoutState 0xB4000 { guided with clock := SongClock.reset }).compositor.guideLatch = none ∧
      scanoutTreatment 0xB4000 (scanoutState 0xB4000 { guided with clock := SongClock.reset }) = .pass ∧
      (scanoutState 0 lastTwo).events = 0x80 ∧ (scanoutState 0 playing).events = 0 :=
  ⟨acceptable (by decide +kernel), by decide +kernel⟩

/-- R76, R77: the beat in row 95 is TRANSFORMed by its latch, the beat in row 96 is PASSed and clears the flag. -/
theorem witness_ScanoutBeatsLatchOnEntry_request : holds (exec (.requestAccept bandEdge) playing) (fun t =>
    decide (t.bus.list.map Listed.beats =
      [[⟨0x300B3FF8, .transform .pass .pass⟩, ⟨0x300B4000, .pass⟩]]) && !t.compositor.inLyric &&
      t.compositor.lyricLatch.isSome) = true := by decide +kernel

/-- A lyric latch of rows 10 to 25 and 4 columns, scrolled by 4 rows: part B in buffer 1, wiped to column 3, then a blank
below. -/
def drawn : LyricLatch :=
  { time := 0, width := 4, stride := 256, bandTop := 10, height := 8, unsung := ⟨9, 9, 9⟩
    sung := { a := ⟨1, 2, 3⟩, b := ⟨4, 5, 6⟩, both := ⟨7, 8, 9⟩ }, scrollDuration := 300, lineLead := 0
    lines := [{ buffer := 1, part := .b, wipe := 3 }, { buffer := 2, part := .a, wipe := 0 }, { buffer := 3, part := .a, wipe := 0 }]
    blankBelow := true, offset := 4 }

/-- A guide latch of rows 20 to 27 and 16 columns, two lanes of 4 rows: a marker of channel 2 and a note of both parts in
columns 6 and 7 of the lowest lane; the lyric rows end at 23. -/
def lanes : GuideLatch :=
  { time := 4, width := 16, stride := 256, bandTop := 8, height := 8, guideTop := 20, guideHeight := 8
    sung := { a := ⟨1, 2, 3⟩, b := ⟨4, 5, 6⟩, both := ⟨7, 8, 9⟩ }, markerColours := #v[⟨0, 0, 0⟩, ⟨1, 1, 1⟩, ⟨2, 2, 2⟩, ⟨3, 3, 3⟩]
    span := 16, floorNote := 60, ceilNote := 61, key := 0, nowColumn := 4, lanes := 2, laneHeight := 4
    notes := [{ start := 6, stop := 8, note := 60, part := .both }], markers := [{ channel := 2, lane := 0 }] }

theorem witness_LyricBlendRoundsToNearest :
    3 ≤ 3 ∧
      (lyricPaint drawn Lyrics.reset.strips 12 4 = .pass ∧ lyricPaint drawn Lyrics.reset.strips 9 3 = .pass ∧
        lyricPaint drawn Lyrics.reset.strips 26 3 = .pass ∧ lyricPaint drawn Lyrics.reset.strips 25 3 = .pass) ∧
      ((12 - 10 + 4) / 8 = 0 ∧ drawn.lines[0]? = some { buffer := 1, part := .b, wipe := 3 } ∧
        lyricPaint drawn Lyrics.reset.strips 12 2 = .blend ⟨4, 5, 6⟩ 0 ∧ lyricPaint drawn Lyrics.reset.strips 12 3 = .blend ⟨9, 9, 9⟩ 0) ∧
      (guidePaint lanes 19 6 = .pass ∧ guidePaint lanes 28 6 = .pass ∧ guidePaint lanes 27 16 = .pass ∧ guidePaint lanes 23 6 = .pass) ∧
      (guidePaint lanes 26 5 = .solid ⟨2, 2, 2⟩ ∧ guidePaint lanes 26 6 = .solid ⟨7, 8, 9⟩ ∧ guidePaint lanes 26 7 = .solid ⟨7, 8, 9⟩ ∧
        guidePaint lanes 26 8 = .pass ∧ guidePaint lanes 27 1 = .pass ∧ guidePaint lanes 27 2 = .solid ⟨2, 2, 2⟩) := by
  decide +kernel

/-- A flat frame, loud: every difference is 0. -/
def wave : Flight :=
  { samples := List.replicate 512 8000, position := 0, state := .running, epoch := 0, voicing := 400, folding := true, start := 0 }

theorem flat_difference (n lag : Nat) (v : Int) : differenceAt (List.replicate n v) lag = 0 := by
  simp [differenceAt]

theorem wave_differences : differenceTable (signedSamples wave.samples) = List.replicate 235 0 := by
  have h : signedSamples wave.samples = List.replicate 512 8000 := List.map_replicate ..
  simp only [h, differenceTable, flat_difference, List.map_const', List.length_range]

/-- A pulse of 15 samples: D(15) to D(249) are all 491,520, which is S, so the frame is NOISY. -/
def pulse : Flight := { wave with samples := List.replicate 15 0x8000 ++ List.replicate 497 0 }

/-- A ramp: D(L) is 16,384 L, so no candidate is a local minimum. -/
def ramp : Flight := { wave with samples := (List.range 512).map (fun i => BitVec.ofNat 16 (64 * i)) }

/-- R103: a flat difference function meets all three conditions at 16. -/
theorem picked_of_flat (x : List (BitVec 16)) (c : Nat) (h : ∀ k, 15 ≤ k → k ≤ 249 → differenceRuled x k = c) : PickedLag x 16 := by
  refine ⟨⟨by decide, ?_, ?_, fun k h1 h2 => ?_⟩, fun k hk hf => by have := hf.1.1; omega⟩
  · rw [h 16 (by decide) (by decide), h 15 (by decide) (by decide)]
  · rw [h 16 (by decide) (by decide), h 17 (by decide) (by decide)]
  · rw [h 16 (by decide) (by decide), h k (by omega) (by omega)]; omega

/-- A difference from the terms of its sum. -/
theorem difference_of_terms (x : List (BitVec 16)) (lag : Nat) (g : Nat → Nat)
    (h : ∀ i, i < 256 → (sampleRuled x i - sampleRuled x (i + lag)).natAbs = g i) :
    differenceRuled x lag = ((List.range 256).map g).sum :=
  congrArg List.sum (List.map_congr_left fun i hi => h i (List.mem_range.mp hi))

theorem wave_difference (k : Nat) (h : k ≤ 249) : differenceRuled wave.samples k = 0 := by
  have hs : ∀ i, i < 512 → sampleRuled wave.samples i = 8000 := fun i h => by
    rw [sampleRuled, wave, List.getD_replicate (h := h)]; rfl
  rw [difference_of_terms wave.samples k (fun _ => 0) fun i hi => by rw [hs i (by omega), hs (i + k) (by omega)]; rfl]
  decide +kernel

theorem pulse_sample (i : Nat) (h : i < 512) : sampleRuled pulse.samples i = if i < 15 then -32768 else 0 := by
  rw [sampleRuled, pulse]
  by_cases h1 : i < 15
  · rw [List.getD_append _ _ _ _ (by simpa using h1), List.getD_replicate (h := h1), if_pos h1]; rfl
  · rw [List.getD_append_right _ _ _ _ (by simpa using h1), List.getD_replicate (h := by simp; omega), if_neg h1]; rfl

theorem pulse_difference (k : Nat) (h1 : 15 ≤ k) (h2 : k ≤ 249) : differenceRuled pulse.samples k = 491520 := by
  rw [difference_of_terms pulse.samples k (fun i => if i < 15 then 32768 else 0) fun i hi => by
    rw [pulse_sample i (by omega), pulse_sample (i + k) (by omega), if_neg (by omega : ¬ i + k < 15)]
    by_cases h : i < 15 <;> simp [h]]
  decide +kernel

theorem pulse_bound : boundRuled pulse.samples 16 = 491520 := by
  have h : boundRuled pulse.samples 16 = ((List.range 256).map fun i => if i < 15 then 32768 else 0).sum :=
    congrArg List.sum (List.map_congr_left fun i hi => by
      have hi := List.mem_range.mp hi
      rw [pulse_sample i (by omega), pulse_sample (i + 16) (by omega), if_neg (by omega : ¬ i + 16 < 15)]
      by_cases h : i < 15 <;> simp [h])
  rw [h]
  decide +kernel

theorem ramp_difference (k : Nat) (h : k ≤ 256) : differenceRuled ramp.samples k = 256 * (64 * k) := by
  have hs : ∀ i, i < 512 → sampleRuled ramp.samples i = 64 * (i : Int) := fun i h => by
    rw [sampleRuled, ramp, List.getD_eq_getElem?_getD, List.getElem?_map, List.getElem?_range h, Option.map_some, Option.getD_some,
      BitVec.toInt_eq_toNat_of_lt (by simp; omega)]
    simp; omega
  rw [difference_of_terms ramp.samples k (fun _ => 64 * k) fun i hi => by rw [hs i (by omega), hs (i + k) (by omega)]; omega]
  simp only [List.map_const', List.length_range, List.sum_replicate, smul_eq_mul]

/-- R103: the flat frame picks lag 16, which is 1000 Hz and index 189. Its energy is 8000, so a threshold of 8001 makes it
QUIET. -/
theorem witness_EstimateFollowsFrame :
    (wave.samples.length = 512 ∧ pulse.samples.length = 512 ∧ ramp.samples.length = 512) ∧
      PickedLag wave.samples 16 ∧ 2 * differenceRuled wave.samples 16 ≤ boundRuled wave.samples 16 ∧
      wave.estimate.voiced = true ∧ wave.estimate.lag = 256 ∧ wave.estimate.pitch = 189 ∧
      ({ wave with voicing := 8000 } : Flight).voicing ≤ wave.estimate.energy ∧
      ({ wave with voicing := 8001 } : Flight).estimate.cause = .quiet := by
  have h : wave.estimate =
      { voiced := true, cause := .none, energy := 8000, lag := 256, pitch := 189, position := 0, state := .running, epoch := 0
        folding := true } := by
    simp only [Flight.estimate, wave_differences]
    decide +kernel
  refine ⟨by decide +kernel, picked_of_flat _ 0 fun k _ hk => wave_difference k hk, ?_, by rw [h], by rw [h], by rw [h], by rw [h],
    by decide +kernel⟩
  rw [wave_difference 16 (by decide)]
  exact Nat.zero_le _

/-- R104: the pulse has energy 960 and a picked lag, and 2 D(16) above S; the ramp has no picked lag. -/
theorem witness_EstimateFollowsFrame_unvoiced :
    (pulse.voicing ≤ energyOf (signedSamples pulse.samples) ∧ PickedLag pulse.samples 16 ∧
        boundRuled pulse.samples 16 < 2 * differenceRuled pulse.samples 16) ∧
      ramp.voicing ≤ energyOf (signedSamples ramp.samples) ∧ ∀ lag, ¬ PickedLag ramp.samples lag := by
  refine ⟨⟨by decide +kernel, picked_of_flat _ 491520 pulse_difference, ?_⟩, by decide +kernel, fun lag hp => ?_⟩
  · rw [pulse_difference 16 (by decide) (by decide), pulse_bound]; decide
  · obtain ⟨⟨h1, h2⟩, hle, -⟩ := hp.1
    rw [ramp_difference lag (by omega), ramp_difference (lag - 1) (by omega)] at hle
    omega

/-- A note of part A in slot 0 from 0 to 1000 ms, and a running song whose channel 1 sings A with a frame in flight. -/
def singing : State :=
  let s := song .running State.reset
  { s with
    melody := putBytes [] 0 ([0x11, 57] ++ leBytes 3 0 ++ leBytes 3 1000)
    flights := setAt s.flights 1 (some { wave with position := 56 })
    score := { s.score with channels := (setAt s.score.channels 1 { Channel.reset with part := .a }) } }

/-- An open note of one frame on a slot. -/
def onSlot (i : Nat) : OpenNote := { slot := i, start := 0, stop := 64, frames := 1, credits := 0, onset := none }

/-- The same with an open note, one frame short of the most, and a frame of a position. -/
def posting (o : Option OpenNote) (p : Nat) : State :=
  { singing with
    flights := setAt singing.flights 1 (some { wave with position := p })
    score := { singing.score with channels := (setAt singing.score.channels 1
      { Channel.reset with part := .a, frames := 65534, openNote := o }) } }

theorem witness_EstimatePostingCreditsScorableFrames :
    (∀ o ∈ [none, some (onSlot 0), some (onSlot 5)], ∀ p ∈ [55, 56, 1055, 1056],
      (posting o p).busResetLow = false ∧ (posting o p).flights[(1 : Fin 4)] = some { wave with position := p } ∧
        (wave.state = .running ∧ wave.epoch = (posting o p).clock.epoch) ∧
        ((posting o p).score.channels[(1 : Fin 4)]).part = .a ∧ ((posting o p).score.channels[(1 : Fin 4)]).frames = 65534 ∧
        (posting o p).clock.captureLatency + 16 = 56 ∧ ((posting o p).score.channels[(1 : Fin 4)]).openNote = o) ∧
      (NoteContains (posting none 0).melody .a 0 0 ∧ NoteContains (posting none 0).melody .a 999 0 ∧
        ActiveNote (posting none 0).melody .a 0 0) ∧
      (∀ i, ¬ NoteContains (posting none 0).melody .a 1000 i) ∧ ¬ 56 ≤ 55 := by
  refine ⟨by decide +kernel, ⟨?_, ?_, ?_, fun j hj => absurd hj (Nat.not_lt_zero j)⟩, fun i hi => ?_, by decide⟩
  · unfold NoteContains; decide +kernel
  · unfold NoteContains; decide +kernel
  · unfold NoteContains; decide +kernel
  · have h : ∀ i, i < 1024 → holdsNote (posting none 0).melody i = true → noteStop (posting none 0).melody i ≤ 1000 := by
      decide +kernel
    have := h i hi.1 hi.2.1
    have := hi.2.2.2.2
    omega

/-- R118 to R121 against the note at 57, whose target is 84: folded, 189 is 9 away, 134 is 2 and 132 is 0; with no active
note the open note closes, and so does one on another slot. -/
theorem witness_EstimatePostingCreditsScorableFrames_notes :
    let e : Estimate :=
      { voiced := true, cause := .none, energy := 8000, lag := 256, pitch := 189, position := 56, state := .running, epoch := 0
        folding := true }
    let after := fun (o : Option OpenNote) (p pitch : Nat) =>
      let s := posting o p
      ((s.score.channels[(1 : Fin 4)]).post s.clock s.melody { e with position := p, pitch := pitch }).1
    (after none 56 189).openNote = some { slot := 0, start := 0, stop := 1000, frames := 1, credits := 0, onset := none } ∧
      (after (some (onSlot 0)) 1055 134).openNote =
        some { slot := 0, start := 0, stop := 1000, frames := 2, credits := 3, onset := some 999 } ∧
      (after (some (onSlot 5)) 56 132).openNote = some { slot := 0, start := 0, stop := 1000, frames := 1, credits := 4, onset := some 0 } ∧
      (after (some (onSlot 5)) 56 132).notesClosed = 1 ∧ (after (some (onSlot 5)) 1056 132).openNote = none ∧
      (after (some (onSlot 5)) 55 132).openNote = some (onSlot 5) := by decide +kernel

/-- The same with no channel of part A or BOTH and no now-playing record. -/
def leaderless : State :=
  { ending with
    queue := { ending.queue with nowPlaying := none }
    score := { ending.score with channels := Vector.replicate 4 { Channel.reset with part := .b } } }

theorem witness_ResultPostingCompletes :
    ending.score.posting = some { outcome := .complete, start := 0 } ∧
      (encoreThreshold ending.anchor.bytes = 7500 ∧ encoreSteps ending.anchor.bytes = 2 ∧
        7500 ≤ (finalRuled (ending.score.channels[(0 : Fin 4)])).score) ∧
      (∃ n, ending.queue.nowPlaying = some n ∧ n.requester = .handset 5) ∧
      (∃ pre passed e back, ending.queue.entries = pre ++ passed ++ e :: back ∧ e.requester = .handset 5 ∧
        (∀ x ∈ pre ++ passed, x.requester ≠ .handset 5) ∧ passed.length = 2 ∧ (∀ x ∈ passed, x.pin = false) ∧
        ∃ x, pre.getLast? = some x ∧ x.pin = true) ∧
      (ending.score.channels[(0 : Fin 4)]).part = .a ∧ leaderless.score.posting = some { outcome := .complete, start := 0 } ∧
      (∀ c : Fin 4, ¬ ((leaderless.score.channels[c]).part = .a ∨ (leaderless.score.channels[c]).part = .both)) ∧
      leaderless.queue.nowPlaying = none :=
  ⟨rfl, by decide +kernel, ⟨_, rfl, rfl⟩,
    ⟨[{ entry 21 1 60 .queued with pin := true }], [entry 22 2 60 .queued, entry 23 3 60 .queued],
      { entry 24 6 60 .queued with requester := .handset 5 }, [{ entry 25 7 60 .queued with requester := .handset 5 }],
      rfl, rfl, by decide, rfl, by decide, _, rfl, rfl⟩,
    rfl, rfl, by decide +kernel, rfl⟩

/-- R125, R126, R165: a posting with no lead and no requester changes no board entry and promotes nothing. -/
theorem witness_ResultPostingCompletes_leaderless : holds (exec .resultPostingComplete leaderless) (fun t =>
    decide (t.score.result.lead = none) && decide (t.score.result.requester = .none) && decide (t.score.board = leaderless.score.board) &&
      decide (t.queue.entries.map Entry.tag = [21, 22, 23, 24, 25]) && decide (t.queue.gen = 2)) = true := by decide +kernel

theorem witness_ClearBoardZeroesScoreboard : State.reset.busUp = true := rfl

/-! ### Witnesses: queue and room -/

theorem witness_StandbyWalkIsFirstFit :
    standbyWalk 1600 0 (five 1800).queue.entries =
        [entry 11 1 300 .queued, entry 12 2 240 .waiting, entry 13 3 1200 .queued, entry 14 4 900 .standby, entry 15 5 60 .queued] ∧
      (State.reset.room.state = .closed ∧ State.reset.budget = 0) ∧
      ((room 1800 (song .running State.reset)).room.state = .opened ∧ (room 1800 (song .running State.reset)).clock.position = 0 ∧
        (room 1800 (song .running State.reset)).budget = 1800 * 90 / 100 - (40000 - 0 + 999) / 1000) := by
  decide +kernel

/-- Tags 255 and 1 in use, the next tag 255. -/
def wrapping : State :=
  { queued [entry 255 1 60 .queued, entry 1 2 60 .queued] (room 2400 State.reset) with
    queue := { State.reset.queue with entries := [entry 255 1 60 .queued, entry 1 2 60 .queued], nextTag := 255 } }

theorem witness_NewTagIsFirstFree : QueueSound wrapping ∧ wrapping.queue.entries.length < 48 ∧ wrapping.queue.freeTag = 2 := by
  unfold QueueSound Queue.playingTag; decide +kernel

/-- A QUEUE_INSERT at the ends of its ranges. -/
def insertAtEnds : InsertArgs := { song := 999999, position := 48, duration := 1800, difficulty := 2, key := 0xFA, duet := 1, pin := 1 }

theorem witness_QueueInsertPlacesStaffEntry :
    (five 1800).busUp = true ∧ (five 1800).room.state ≠ .closed ∧ State.reset.room.state = .closed ∧
      (∀ e ∈ (five 1800).queue.entries, e.song ≠ insertAtEnds.song.toNat) ∧ (five 1800).queue.entries.length < 48 ∧
      (1 ≤ insertAtEnds.song.toNat ∧ insertAtEnds.song.toNat = 999999 ∧ insertAtEnds.position.toNat = 48 ∧
        insertAtEnds.duration.toNat = 1800 ∧ -6 ≤ insertAtEnds.key.toInt ∧ insertAtEnds.key.toInt ≤ 6 ∧
        insertAtEnds.duet.toNat ≤ 1 ∧ insertAtEnds.pin.toNat ≤ 1 ∧ difficultyOf insertAtEnds.difficulty = some .hard) ∧
      (∃ e ∈ (five 1800).queue.entries, e.song = 5) ∧ 48 ≤ (List.replicate 48 (entry 1 1 1 .queued)).length ∧
      48 < (49 : Byte).toNat ∧ (0xF9 : Byte).toInt < -6 := by decide +kernel

/-- R155: position 1 is the head, the entry count the last but one, one more or 0 the tail; PlacedAt says so. -/
theorem witness_QueueInsertPlacesStaffEntry_places :
    (∀ x : Nat × List Nat, x ∈ [(1, [9, 1, 2, 3]), (3, [1, 2, 9, 3]), (4, [1, 2, 3, 9]), (0, [1, 2, 3, 9]), (48, [1, 2, 3, 9])] →
      (placeAt [entry 1 1 1 .queued, entry 2 2 1 .queued, entry 3 3 1 .queued] x.1 (entry 9 9 1 .queued)).map Entry.tag = x.2) ∧
    PlacedAt [entry 1 1 1 .queued] 1 (entry 9 9 1 .queued) [entry 9 9 1 .queued, entry 1 1 1 .queued] ∧
    PlacedAt [entry 1 1 1 .queued] 2 (entry 9 9 1 .queued) [entry 1 1 1 .queued, entry 9 9 1 .queued] ∧
    PlacedAt [entry 1 1 1 .queued] 0 (entry 9 9 1 .queued) [entry 1 1 1 .queued, entry 9 9 1 .queued] := by
  refine ⟨by decide, ⟨?_, ?_⟩, ⟨fun _ => rfl, ?_⟩, ⟨fun _ => rfl, ?_⟩⟩
  · rintro (h | h)
    · exact absurd h (by decide)
    · exact absurd h (by decide)
  · rintro (_ | ⟨x, pre⟩) post h - h1
    · rw [h]; rfl
    · exact absurd h1 (by simp)
  · rintro (_ | ⟨x, _ | ⟨y, pre⟩⟩) post h h0 h1
    · simp at h1
    · simp only [List.cons_append, List.nil_append, List.cons.injEq] at h
      exact absurd h.2.symm h0
    · simp at h
  · intro pre post _ _ h1
    exact absurd h1 (by simp)

theorem witness_TagCommandsActOnTheirEntry :
    (five 1800).busUp = true ∧ (15 : Byte) ≠ 0 ∧
      (∃ pre e, (five 1800).queue.entries = pre ++ e :: [] ∧ (∀ x ∈ pre, x.tag ≠ (15 : Byte).toNat) ∧ e.tag = (15 : Byte).toNat ∧
        placeAt (pre ++ []) (48 : Byte).toNat e = (five 1800).queue.entries ∧
        placeAt (pre ++ []) (1 : Byte).toNat e ≠ (five 1800).queue.entries) ∧
      (∀ e ∈ (five 1800).queue.entries, e.tag ≠ (255 : Byte).toNat) ∧
      evaluated (five 1800) (five 1800).queue.entries = (five 1800).queue.entries ∧
      evaluated (five 1799) (five 1799).queue.entries = (five 1799).queue.entries ∧
      evaluated (five 600) (five 600).queue.entries ≠ (five 600).queue.entries ∧ 48 < (49 : Byte).toNat ∧ 1 < (2 : Byte).toNat := by
  refine ⟨rfl, by decide, ⟨(five 1800).queue.entries.take 4, entry 15 5 60 .queued, ?_⟩, ?_⟩ <;> (try unfold evaluated) <;> decide +kernel

/-- R157: a move that leaves the entry at the tail; with the room's time gone down it still evaluates. -/
theorem witness_TagCommandsActOnTheirEntry_inPlace :
    holds (exec (.queueMove slot 15 5) (five 1800)) (fun t => decide (t.queue = (five 1800).queue) && decide (t.events = 0)) = true ∧
    holds (exec (.queueMove slot 15 48) (five 600)) (fun t =>
      decide (tagStates t = [(11, .queued), (12, .waiting), (13, .standby), (14, .standby), (15, .queued)]) &&
        decide (t.queue.gen = 1) && decide (t.events = 0x4000)) = true := by decide +kernel

theorem witness_RoomOpenBeginsBooking :
    State.reset.busUp = true ∧ State.reset.room.state = .closed ∧ (59 : BitVec 32).toNat < 60 ∧ 60 ≤ (60 : BitVec 32).toNat ∧
      (86400 : BitVec 32).toNat ≤ 86400 ∧ 86400 < (86401 : BitVec 32).toNat ∧ (room 60 State.reset).room.state ≠ .closed ∧
      (300 : BitVec 32).toNat ≤ 300 := by decide +kernel

/-- The queue of five and a HELD handset in a closed room. -/
def leftOver : State := { handset 9 .held 130 (five 0) with room := Room.reset }

/-- R137, R153, R169: the queue held entries and a handset was HELD; at 300 seconds the time is low, at 301 not. -/
theorem witness_RoomOpenBeginsBooking_booking :
    leftOver.room.state = .closed ∧
      holds (exec (.roomOpen slot 301) leftOver) (fun t => decide (t.events = 0x5000) && decide (t.statusGen = 3) &&
        decide (t.queue.gen = 1) && decide (t.queue.nextTag = 6) && decide (t.handsets.gen = 2)) = true ∧
      holds (exec (.roomOpen slot 300) leftOver) (fun t => decide (t.events = 0xD000) && decide (t.statusGen = 4)) = true := by
  decide +kernel

theorem witness_RoomExtendAndClose :
    (room 86399 State.reset).busUp = true ∧ (room 86399 State.reset).room.state = .opened ∧ State.reset.room.state = .closed ∧
      ({ State.reset with room := { state := .overtime, remaining := 0, timer := none } }).room.state = .overtime ∧
      1 ≤ (1 : BitVec 32).toNat ∧ (86400 : BitVec 32).toNat ≤ 86400 ∧ 86400 < (86401 : BitVec 32).toNat ∧
      (room 60 State.reset).clock.state = .idle ∧ ending.clock.state = .ended ∧ ending.clock.postingDone = false ∧
      holds (exec (.roomExtend slot 86400) (room 86399 State.reset)) (fun t => decide (t.room.remaining = 86400)) = true := by
  decide +kernel

/-- R137, R153, R171: a close with entries and a HELD handset; R170: an extension in OPEN to 300 seconds raises nothing but
the evaluation's change. -/
theorem witness_RoomExtendAndClose_booking :
    holds (exec (.roomClose slot) (handset 9 .held 130 (five 1800))) (fun t => decide (t.events = 0x5000) &&
      decide (t.statusGen = 3) && decide (t.queue.gen = 1) && decide (t.queue.nextTag = 6) && decide (t.handsets.gen = 2)) = true ∧
    holds (exec (.roomExtend slot 240) (five 60)) (fun t => decide (t.events = 0x4000) && decide (t.queue.gen = 1)) = true ∧
    holds (exec (.roomExtend slot 240) (room 60 State.reset)) (fun t => decide (t.events = 0)) = true := by decide +kernel

theorem witness_RoomSecondCountsDown :
    (room 1 State.reset).room.state = .opened ∧ (room 1 State.reset).room.timer = some 0 ∧
      1000 ≤ ({ room 1 State.reset with timebase := 1000 }.timebase - 0).toNat ∧ 1 ≤ (room 1 State.reset).room.remaining ∧
      holds (exec .roomSecondExpiry { room 1 State.reset with timebase := 1000 }) (fun t =>
        decide (t.room = { state := .overtime, remaining := 0, timer := none })) = true := by decide +kernel

/-- R168: from 61 to 60 the evaluation runs and changes states; from 302 to 301 nothing is raised; from 301 to 300 the time
is low. -/
theorem witness_RoomSecondCountsDown_edges :
    holds (exec .roomSecondExpiry { five 61 with timebase := 1000 }) (fun t =>
      decide (t.events = 0x4000) && decide (t.queue.gen = 1) && decide (t.queue.nextTag = 6)) = true ∧
    holds (exec .roomSecondExpiry { five 302 with timebase := 1000 }) (fun t => decide (t.events = 0)) = true ∧
    holds (exec .roomSecondExpiry { room 301 State.reset with timebase := 1000 }) (fun t => decide (t.events = 0x8000)) = true := by
  decide +kernel

/-! ### Witnesses: handsets -/

/-- Handset 9 in a state, its last sequence that of `head`, in an open room at time 77. -/
def repeated (st : HandsetState) : State :=
  let s := handset 9 st 0 (room 60 State.reset)
  { s with
    timebase := 77
    handsets := { s.handsets with records := (setAt s.handsets.records 9
      { s.handsets.records[(9 : Fin 16)] with lastSequence := some 41 }) } }

theorem witness_PacketsTurnedBack :
    packetOf (.query (head 9)) = some (head 9) ∧ (Instr.query (head 9)).wellFormed = true ∧ State.reset.busUp = true ∧
      State.reset.room.state = .closed ∧ (room 60 State.reset).room.state ≠ .closed ∧
      ((handset 9 .barred 256 (room 60 State.reset)).handsets.records[(head 9).handset]).state = .barred ∧
      ((repeated .absent).handsets.records[(head 9).handset]).lastSequence = some (head 9).sequence ∧
      ((repeated .absent).handsets.records[(head 9).handset]).state = .absent ∧
      ((repeated .active).handsets.records[(head 9).handset]).state = .active := by decide +kernel

/-- R135, R148: a repeat from an ABSENT handset makes it present and nothing more; one from an ACTIVE handset restarts its
timer alone. -/
theorem witness_PacketsTurnedBack_repeats :
    holds (exec (.query (head 9)) (repeated .absent)) (fun t =>
      decide ((t.handsets.records[(9 : Fin 16)]).state = .active) && decide (t.events = 0x1000) && decide (t.handsets.gen = 1)) = true ∧
    holds (exec (.query (head 9)) (repeated .active)) (fun t =>
      decide ((t.handsets.records[(9 : Fin 16)]).presence = some 77) && decide (t.events = 0) && decide (t.handsets.gen = 0)) = true := by decide +kernel

theorem witness_FieldErrors :
    (Handled (handset 9 .active 120 (room 60 State.reset)) (head 9) ∧
        HandsetsSound (handset 9 .active 120 (room 60 State.reset))) ∧
      5 ≤ (5 : Byte).toNat ∧ 999999 < (1000000 : BitVec 24).toNat ∧ (0 : BitVec 24).toNat = 0 ∧ 1800 < (1801 : BitVec 16).toNat ∧
      (0xF9 : Byte).toInt < -6 ∧ 1 < (2 : Byte).toNat := by
  unfold Handled HandsetsSound Handset.Sound; decide +kernel

/-- R136: each of the kinds with flags of 2 or song number 0 is a FIELD_ERROR at counter 120, which makes the handset HELD. -/
theorem witness_FieldErrors_kinds :
    let s := handset 9 .active 120 (room 60 State.reset)
    ([.cancel { head 9 with flags := 2 } 1, .voteSkip { head 9 with flags := 2 } 1, .query { head 9 with flags := 2 },
        .request { head 9 with flags := 2 } (fields 1), .cancel (head 9) 0, .voteSkip (head 9) 1000000, .request (head 9) (fields 0)] :
      List Instr).all (fun c => holds (exec c s) (fun t =>
        decide ((t.handsets.records[(9 : Fin 16)]).reply.outcome = .fieldError) && decide ((t.handsets.records[(9 : Fin 16)]).errors = 128) &&
          decide ((t.handsets.records[(9 : Fin 16)]).state = .held) && decide (t.events = 0x3000))) = true := by decide +kernel

/-- Filter record 7 alone: odd song numbers from handset 9 WAIT. -/
def filtered : State := shadow 0x1F0 [1, 0, 0, 0, 1, 0, 0, 0, 0, 2, 5, 1] (five 1800)

theorem witness_RequestDecidedByChecks :
    Handled (five 1800) (head 9) ∧ (head 9).flags.toNat ≤ 1 ∧
      (1 ≤ (fields 999999).song.toNat ∧ (fields 999999).song.toNat = 999999 ∧ difficultyOf (fields 999999).difficulty = some .normal ∧
        -6 ≤ (fields 999999).key.toInt ∧ (fields 999999).key.toInt ≤ 6 ∧ 1 ≤ (fields 999999).duration.toNat ∧
        (fields 999999).duration.toNat ≤ 1800) ∧
      filterAction (five 1800).anchor.bytes 40123 9 = .allow ∧ (∀ e ∈ (five 1800).queue.entries, e.song ≠ 40123) ∧
      (five 1800).queue.pendingCount 9 < handsetQuota (five 1800).anchor.bytes ∧ (five 1800).queue.entries.length < 48 ∧
      handsetQuota (five 1800).anchor.bytes ≤ (five 1800).queue.pendingCount 2 ∧
      filterAction (shadow 0x149 [1] (five 1800)).anchor.bytes 40123 9 = .deny ∧
      (∃ pre e post, (five 1800).queue.entries = pre ++ e :: post ∧ (∀ x ∈ pre, x.song ≠ 2) ∧ e.song = 2 ∧ e.repeats ≤ 7) ∧
      (∃ n, (song .armed State.reset).queue.nowPlaying = some n ∧ n.requester = .handset 5) ∧
      (FilterMatches filtered.anchor.bytes 40123 9 7 ∧ ¬ FilterMatches filtered.anchor.bytes 40122 9 7 ∧
        filterAction filtered.anchor.bytes 40123 9 = .wait ∧ filterAction filtered.anchor.bytes 40122 9 = .allow) := by
  refine ⟨?_, by decide, by decide, by decide +kernel, by decide +kernel, by decide +kernel, by decide +kernel, by decide +kernel,
    by decide +kernel, ⟨[entry 11 1 300 .queued], entry 12 2 240 .waiting, _, rfl, by decide, rfl, by decide⟩, ⟨_, rfl, rfl⟩, ?_⟩
  · unfold Handled; decide +kernel
  · unfold FilterMatches; decide +kernel

/-- R142, R144, R153: a merge from an ABSENT handset counts once in the queue, and three times in the handset table: the
arrival, the last sequence and the reply. -/
theorem witness_RequestDecidedByChecks_merge :
    holds (exec (.request (head 9) (fields 2)) (five 1800)) (fun t => decide (t.queue.gen = 1) && decide (t.queue.nextTag = 6) &&
      decide (t.handsets.gen = 3) && decide (t.events = 0x7000) && decide (t.statusGen = 3)) = true := by decide +kernel

/-- Handsets 1 and 3 present while a song runs, the vote of handset `voted` in the set. -/
def voters (voted : Nat) : State :=
  let s := handset 1 .active 0 (handset 3 .active 0 (room 2400 (song .running State.reset)))
  { s with handsets := { s.handsets with records := (setAt s.handsets.records 1
      { s.handsets.records[(1 : Fin 16)] with vote := decide (voted = 1) }) } }

theorem witness_CancelVoteAndQuery :
    Handled (five 1800) (head 2) ∧ (999999 : BitVec 24).toNat ≤ 999999 ∧
      (∃ e post, (five 1800).queue.entries = [] ++ e :: post ∧ e.song = 1 ∧ e.requester = .handset 2) ∧
      (∀ e ∈ (five 1800).queue.entries, e.requester ≠ .handset 9) ∧
      ((song .armed State.reset).clock.state = .armed ∧ (song .armed State.reset).clock.song = 40877) ∧
      State.reset.clock.state = .idle ∧
      (Handled (voters 0) (head 1) ∧ ((voters 0).handsets.records[(1 : Fin 16)]).vote = false) ∧
      (Handled (voters 1) (head 1) ∧ ((voters 1).handsets.records[(1 : Fin 16)]).vote = true) := by
  refine ⟨?_, by decide, ⟨_, _, rfl, rfl, rfl⟩, by decide +kernel, by decide +kernel, by decide, ?_, ?_⟩ <;> unfold Handled <;>
    decide +kernel

/-- R142, R146, R153: the removal of 1200 seconds lets another entry be QUEUED, so the queue counts two changes. -/
theorem witness_CancelVoteAndQuery_cancel :
    holds (exec (.cancel (head 2) 3) (five 1800)) (fun t => decide (t.queue.gen = 2) && decide (t.queue.nextTag = 6) &&
      decide (t.handsets.gen = 3) && decide (t.events = 0x7000) && decide (t.statusGen = 3)) = true := by decide +kernel

/-- R148: the vote of one of two present handsets passes; one already in the set is added again to no effect. -/
theorem witness_CancelVoteAndQuery_votes :
    holds (exec (.voteSkip (head 1) 40877) (voters 0)) (fun t =>
      t.handsets.votePassed && decide (t.events.getLsbD 11 = true)) = true ∧
    holds (exec (.voteSkip (head 1) 40877) (voters 1)) (fun t =>
      !t.handsets.votePassed && decide ((t.handsets.records[(1 : Fin 16)]).reply.outcome = .voted)) = true ∧
    holds (exec (.voteSkip (head 1) 40878) (voters 0)) (fun t =>
      !t.handsets.votePassed && decide ((t.handsets.records[(1 : Fin 16)]).reply.outcome = .voteStale)) = true := by decide +kernel

/-- A BARRED handset whose 128th quiet interval is just over. -/
def lastQuiet : State :=
  let s := handset 9 .barred 256 State.reset
  { s with
    timebase := 10000
    handsets := { s.handsets with records := (setAt s.handsets.records 9
      { s.handsets.records[(9 : Fin 16)] with quietCount := 127 }) } }

theorem witness_HandsetTimersAndRelease :
    let s : State := { handset 9 .barred 256 (handset 4 .held 130 State.reset) with timebase := 900000 }
    (s.handsets.records[(4 : Fin 16)]).presence = some 0 ∧ (s.handsets.records[(4 : Fin 16)]).state = .held ∧
      presenceMinutes s.anchor.bytes * 60000 = (s.timebase - 0).toNat ∧
      (s.handsets.records[(9 : Fin 16)]).quiet = some 0 ∧ (s.handsets.records[(9 : Fin 16)]).state = .barred ∧
      10000 ≤ (s.timebase - 0).toNat ∧ (s.handsets.records[(9 : Fin 16)]).quietCount < 127 ∧ s.busUp = true ∧
      15 < (16 : Byte).toNat ∧ (lastQuiet.handsets.records[(9 : Fin 16)]).quiet = some 0 ∧
      (lastQuiet.handsets.records[(9 : Fin 16)]).state = .barred ∧ (lastQuiet.timebase - 0).toNat = 10000 ∧
      (lastQuiet.handsets.records[(9 : Fin 16)]).quietCount = 127 := by decide +kernel

/-- R140: the 128th quiet interval releases the handset. -/
theorem witness_HandsetTimersAndRelease_lastQuiet : holds (exec (.quietIntervalExpiry 9) lastQuiet) (fun t =>
    decide ((t.handsets.records[(9 : Fin 16)]).state = .active) && decide ((t.handsets.records[(9 : Fin 16)]).errors = 0) &&
      decide ((t.handsets.records[(9 : Fin 16)]).quietCount = 0) && decide (t.events = 0x1000) &&
      decide (t.handsets.gen = 2)) = true := by decide +kernel

/-! ### Witnesses: invariants -/

/-- A state in which every block holds something, with a SONG_STOP waiting. -/
def busy : State :=
  let s := handset 9 .barred 256 (handset 4 .held 130 (five 1800))
  let s := song .running (window 1 0x20000000 1 0 9 0 1 s)
  { s with
    pending := [.songStop slot]
    melody := [(0, 0x11)]
    framers := setAt s.framers 1 { expected := some (9, 0x26000480), samples := List.replicate 508 0, gaps := 1 }
    flights := setAt s.flights 1 (some wave)
    lyrics := { s.lyrics with strips := (setAt s.lyrics.strips 2 { state := .shown, bytes := [(0, 1)] }), chain := [2], nextLine := 2 }
    score := { s.score with channels := (setAt s.score.channels 1
      { Channel.reset with
        part := .a, frames := 1, credits := 4
        openNote := some { slot := 0, start := 0, stop := 1000, frames := 1, credits := 4, onset := some 0 } }) }
    bus := { (writing enableBeat State.reset).bus with nextSerial := 1 } }

theorem witness_step_of_busy : holds (step busy) (fun t => decide (t.clock.state = .ended)) = true := by decide +kernel

/-- A song in progress with a chain, frames, an open note and a listed request; and every other song state. -/
theorem witness_BusResetEndsSongAndKeepsTables :
    (busy.resetLow = false ∧ busy.busResetLow = false ∧ busy.clock.state.inProgress = true) ∧
      (song .loaded State.reset).clock.state.inProgress = true ∧ (song .stalled State.reset).clock.state.inProgress = true ∧
      (song .ended State.reset).clock.state.inProgress = false ∧ State.reset.clock.state.inProgress = false := by decide +kernel

/-- R20, R72, R100, R121: what a bus reset leaves of that state. -/
theorem witness_BusResetEndsSongAndKeepsTables_blocks : holds (exec .busReset busy) (fun t =>
    decide (t.lyrics.chain = []) && decide ((t.lyrics.strips[(2 : Fin 4)]) = { state := .free, bytes := [(0, 1)] }) &&
      decide (t.framers[(1 : Fin 4)] = { expected := none, samples := [], gaps := 1 }) && decide (t.bus.list = []) &&
      decide (t.flights = busy.flights) && decide (t.melody = busy.melody) && decide (t.score.gen = 1) &&
      decide (t.score.posting = some { outcome := .reset, start := 0 }) &&
      decide (t.score.channels[(1 : Fin 4)] = closedRuled 96 (busy.score.channels[(1 : Fin 4)])
        { slot := 0, start := 0, stop := 1000, frames := 1, credits := 4, onset := some 0 })) = true := by decide +kernel

/-- R52, R71, R121, R123: a seek to the end frees the SHOWN buffer, closes the open note and ends the song; the evaluation,
with no song left to charge, changes states once. -/
theorem witness_SongSeekSetsPosition_end :
    holds (exec (.songSeek slot 40000 7) busy) (fun t => decide ((t.lyrics.strips[(2 : Fin 4)]).state = .free) &&
      decide (t.lyrics.nextLine = 7) && decide (t.score.gen = 1) && decide ((t.score.channels[(1 : Fin 4)]).notesClosed = 1) &&
      decide (t.queue.gen = 0) && decide (t.events = 0x0008) && decide (t.clock.epoch = 2)) = true ∧
    holds (exec (.songSeek slot 1000 7) busy) (fun t => decide ((t.lyrics.strips[(2 : Fin 4)]).state = .free) &&
      decide (t.score.gen = 1) && decide (t.events = 0) && decide (t.clock.state = .running)) = true := by decide +kernel

theorem witness_ViewsHaveTheirLengths :
    (viewBytes 3 busy).length ≤ 264 ∧ (0x066, 2, 0) ∈ statusFields busy ∧ (0x17C, 4, 0) ∈ globalFields busy.anchor.bytes ∧
      (0x310, 16, 0) ∈ queueFields busy.queue ∧ (0x1A6, 2, 0) ∈ scoreFields busy.score ∧
      (0x105, 3, 0) ∈ handsetFields busy.handsets := by decide +kernel

/-- R177, R178: every field of that state's views is where the fields' lists have it. -/
theorem witness_ViewsHaveTheirLengths_fields :
    let shows := fun (view : List Byte) (x : Nat × Nat × Nat) => decide ((view.drop x.1).take x.2.1 = leBytes x.2.1 x.2.2)
    ((statusFields busy).all (shows (viewBytes 0 busy)) && (globalFields busy.anchor.bytes).all (shows (viewBytes 0 busy)) &&
      (queueFields busy.queue).all (shows (viewBytes 1 busy)) && (scoreFields busy.score).all (shows (viewBytes 2 busy)) &&
      (handsetFields busy.handsets).all (shows (viewBytes 3 busy))) = true := by decide +kernel

theorem witness_StepKeepsMemoriesCanonical : MemoriesCanonical busy := by unfold MemoriesCanonical; decide +kernel

theorem witness_StepKeepsHandsetsSound : HandsetsSound busy := by unfold HandsetsSound Handset.Sound; decide +kernel

theorem witness_StepKeepsQueueSound : QueueSound busy := by unfold QueueSound Queue.playingTag; decide +kernel

theorem witness_StepKeepsChainSound : ChainSound busy := by unfold ChainSound; decide +kernel

theorem witness_StepKeepsBusSound : BusSound busy ∧ BusSound crowded := ⟨busSound (by decide +kernel), busSound (by decide)⟩

theorem witness_StepKeepsClockSound : ClockSound busy := by unfold ClockSound; decide +kernel

/-- A bound on what an option holds, from a test. -/
theorem of_all {α : Type} {x : Option α} {p : α → Bool} (h : x.all p = true) : ∀ o, x = some o → p o = true := by
  rintro o rfl; exact h

theorem witness_StepKeepsScoresSound : ScoresSound busy := by
  refine ⟨fun c => ?_, by decide +kernel, by decide +kernel⟩
  have h : ∀ c : Fin 4, (busy.score.channels[c]).openNote.all (fun o => decide (1 ≤ o.frames) && decide (o.credits ≤ 4 * o.frames)) = true := by
    decide +kernel
  have k : ∀ c : Fin 4,
      (busy.score.channels[c]).frames ≤ 65535 ∧ (busy.score.channels[c]).credits ≤ 4 * (busy.score.channels[c]).frames ∧
        (busy.score.channels[c]).notesHit ≤ (busy.score.channels[c]).notesClosed ∧
        (busy.score.channels[c]).onsetsHit ≤ (busy.score.channels[c]).onsetsCounted ∧
        (busy.score.channels[c]).onsetsCounted ≤ (busy.score.channels[c]).notesClosed ∧ (busy.score.channels[c]).running ≤ 10000 := by
    decide +kernel
  obtain ⟨k1, k2, k3, k4, k5, k6⟩ := k c
  exact ⟨k1, k2, k3, k4, k5, k6, fun o ho => by simpa using of_all (h c) o ho⟩

theorem witness_StepKeepsFramersAndRoomSound : FramersSound busy ∧ RoomSound busy := by
  refine ⟨⟨by decide +kernel, fun c f hf => ?_⟩, by
    show 1 ≤ busy.room.remaining ∧ busy.room.remaining ≤ 86400 ∧ busy.room.timer.isSome = true
    decide +kernel⟩
  have h : ∀ c : Fin 4, (busy.flights[c]).all (fun f => decide (f.samples.length = 512)) = true := by decide +kernel
  simpa using of_all (h c) f hf

end Sys2Proof.Tests
end

section
/-! The Window Match Unit: each of the four checks of R4 in the claims' words, then what a beat gets under each. -/

namespace Sys2Proof.Machine

/-! ### The checks -/

theorem aboveTop_iff (m : Mem) (a : Addr) :
    aboveTop m a = true ↔ memoryTop m ≠ 0 ∧ memoryTop m * 1048576 ≤ a.toNat := by
  simp [aboveTop]

/-- Clearing the 12 offset bits of an address leaves the multiple of 4096 at or below it. -/
theorem pageBase_toNat (a : Addr) : (a &&& 0xFFFFF000).toNat = a.toNat / 4096 * 4096 := by
  have hmask : ∀ k : Fin 32, (0xFFFFF000 : Addr)[k] = decide (12 ≤ k.val) := by decide
  have hshift : a &&& (0xFFFFF000 : Addr) = a >>> 12 <<< 12 := by
    ext k hk
    have hbit : (0xFFFFF000 : Addr)[k] = decide (12 ≤ k) := hmask ⟨k, hk⟩
    rw [BitVec.getElem_and, hbit]
    by_cases hoffset : k < 12
    · simp [hoffset]
    · simp [hoffset, show 12 ≤ k by omega, BitVec.getLsbD_eq_getElem hk]
  have hlt : a.toNat < 2 ^ 32 := a.isLt
  rw [hshift, BitVec.toNat_shiftLeft, BitVec.toNat_ushiftRight, Nat.shiftLeft_eq, Nat.shiftRight_eq_div_pow]
  omega

/-- An anchor page starts at a multiple of 4096 and ends within the address space. -/
theorem anchorBase_aligned (sel : BitVec 2) :
    (anchorBase sel).toNat % 4096 = 0 ∧ (anchorBase sel + 0xFFF).toNat = (anchorBase sel).toNat + 4095 := by
  revert sel; decide

/-- The anchor page is the 4096 addresses from its base on (R6). -/
theorem inAnchorPage_iff (sel : BitVec 2) (a : Addr) :
    inAnchorPage sel a = true ↔ anchorBase sel ≤ a ∧ a ≤ anchorBase sel + 0xFFF := by
  obtain ⟨haligned, hlast⟩ := anchorBase_aligned sel
  rw [inAnchorPage, decide_eq_true_eq, ← BitVec.toNat_inj, pageBase_toNat, BitVec.le_def, BitVec.le_def, hlast]
  omega

/-- The winner is the lowest-numbered of the entries that cover the address. -/
theorem Anchor.winner_eq_some_iff (x : Anchor) (a : Addr) (i : Fin 16) :
    x.winner a = some i ↔ x.covers a i = true ∧ ∀ j : Fin 16, j < i → x.covers a j = false := by
  rw [Anchor.winner, ← Fin.find?_eq_find?_finRange, Fin.find?_eq_some_iff]

theorem Anchor.winner_eq_none_iff (x : Anchor) (a : Addr) :
    x.winner a = none ↔ ∀ i : Fin 16, x.covers a i = false := by
  simp [Anchor.winner]

/-! ### What a beat gets, check by check (R4) -/

section MatchBeat
variable {sel : BitVec 2} {x : Anchor} {a : Addr}

theorem matchBeat_of_aboveTop (dir : Dir) (tag : Fin 16) (habove : aboveTop x.bytes a = true) :
    matchBeat sel x dir tag a = .block .memoryTop := if_pos habove

theorem matchBeat_of_inAnchorPage (dir : Dir) (tag : Fin 16) (habove : ¬ aboveTop x.bytes a = true)
    (hpage : inAnchorPage sel a = true) :
    matchBeat sel x dir tag a = if dir = .read then .pass else .anchorWrite := by
  unfold matchBeat
  rw [if_neg habove, if_pos hpage]
  cases dir <;> rfl

/-- Below the memory top and outside the anchor page the window entries decide. -/
theorem matchBeat_of_winner {i : Fin 16} (dir : Dir) (tag : Fin 16) (habove : ¬ aboveTop x.bytes a = true)
    (hpage : ¬ inAnchorPage sel a = true) (hwinner : x.winner a = some i) :
    matchBeat sel x dir tag a = x.ownerMatch dir tag i := by
  unfold matchBeat
  rw [if_neg habove, if_neg hpage, hwinner]

theorem matchBeat_of_no_winner (dir : Dir) (tag : Fin 16) (habove : ¬ aboveTop x.bytes a = true)
    (hpage : ¬ inAnchorPage sel a = true) (hwinner : x.winner a = none) :
    matchBeat sel x dir tag a = .pass := by
  unfold matchBeat
  rw [if_neg habove, if_neg hpage, hwinner]

end MatchBeat

/-- Settles O4: the checks in the claim's words are the model's tests, and containment is `covers_ruled`. -/
theorem matchTakesChecksInOrder : Obligations.MatchTakesChecksInOrder := by
  intro sel x dir tag a above page
  have habove : aboveTop x.bytes a = true ↔ above := aboveTop_iff x.bytes a
  have hpage : inAnchorPage sel a = true ↔ page := inAnchorPage_iff sel a
  rw [← habove, ← hpage]
  refine ⟨matchBeat_of_aboveTop dir tag, matchBeat_of_inAnchorPage dir tag, ?entry, ?noMatch, covers_ruled x a⟩
  case entry =>
    intro hbelow houtside i hcovers hlowest
    exact matchBeat_of_winner dir tag hbelow houtside ((x.winner_eq_some_iff a i).2 ⟨hcovers, hlowest⟩)
  case noMatch =>
    intro hbelow houtside hnone
    exact matchBeat_of_no_winner dir tag hbelow houtside ((x.winner_eq_none_iff a).2 hnone)

end Sys2Proof.Machine
end

section
/-! The Command Intake: what a COMMAND beat does that ends no record (R21, R22), from the beat's handing over to the
last-command record. -/

namespace Sys2Proof.Machine

/-! ### The slot of a beat (R21) -/

/-- A beat 0 stands at its slot's own offset. -/
theorem slotOffset_of_beat_zero {off : Nat} (h : off % 16 = 0) : slotOffset off = BitVec.ofNat 32 off := by
  rw [slotOffset, Nat.div_mul_cancel (Nat.dvd_of_mod_eq_zero h)]

/-- A beat 1 stands 8 bytes after its slot's offset. -/
theorem slotOffset_of_beat_one {off : Nat} (h : off % 16 = 8) : slotOffset off = BitVec.ofNat 32 (off - 8) := by
  have hslot : off / 16 * 16 = off - 8 := by omega
  rw [slotOffset, hslot]

/-! ### The beats of a slot (R22) -/

/-- A refusal INCOMPLETE drops the first half and writes the record. -/
theorem refuseIncomplete_eq_afterCommand (slot : CmdSlot) (code : Byte) (s : State) :
    refuseIncomplete slot code s = afterCommand slot code .incomplete s := by
  rw [refuseIncomplete, recordCommand_eq _ _ _ _ rfl]
  rfl

theorem commandBeat_zero {off : Nat} (h : off % 16 = 0) (entry : Fin 16) (d : Data) (en : Enables) (s : State) :
    commandBeat entry off d en s =
      setFirstHalf (if en = 0xFF then some { entry := entry, slot := BitVec.ofNat 32 off, data := d } else none) s := by
  rw [commandBeat, if_pos h, slotOffset_of_beat_zero h]

theorem commandBeat_one_of_no_firstHalf {off : Nat} {s : State} (h : off % 16 = 8) (hnone : s.intake.firstHalf = none)
    (entry : Fin 16) (d : Data) (en : Enables) :
    commandBeat entry off d en s =
      afterCommand { hostTag := 0, entry := entry, offset := BitVec.ofNat 32 (off - 8) } 0 .incomplete s := by
  have hone : ¬ off % 16 = 0 := by omega
  rw [commandBeat, if_neg hone, hnone, slotOffset_of_beat_one h]
  exact refuseIncomplete_eq_afterCommand _ _ s

/-! ### From the bus to the intake (R1, R9) -/

/-- A COMMAND beat's data taken: when the intake leaves the bus path alone, its work is all that happens. -/
theorem exec_writeBeatDataTaken_command {s u : State} {b : Beat} {d : Data} {en : Enables} {w : Win}
    (htakes : TakesData s b d en u) (htreatment : b.treatment = .snoop (.command w))
    (hbus : (commandBeat w.index (w.offset b.addr) d en u).bus = u.bus) :
    exec (.writeBeatDataTaken d en) s = .next (commandBeat w.index (w.offset b.addr) d en u) := by
  obtain ⟨hheld, -⟩ := htakes.frame
  have hdeliver : deliverBeat b d en u = commandBeat w.index (w.offset b.addr) d en u := by
    rw [deliverBeat, htreatment]
    rfl
  calc exec (.writeBeatDataTaken d en) s
    _ = .next (takeBeat d en s) := rfl
    _ = .next (acceptHeld (commandBeat w.index (w.offset b.addr) d en u)) := by rw [takeBeat_eq htakes, hdeliver]
    _ = .next (commandBeat w.index (w.offset b.addr) d en u) := by rw [acceptHeld_none (by rw [hbus, hheld])]

/-- The data taken leaves the intake. -/
theorem TakesData.intake_eq {s u : State} {b : Beat} {d : Data} {en : Enables} (h : TakesData s b d en u) :
    u.intake = s.intake := by
  obtain ⟨-, hu⟩ := h.frame
  rw [hu]

/-- Settles O15: a beat 0 sets the first half alone, and a beat 1 without one is refused INCOMPLETE. -/
theorem commandBeatZeroIsFirstHalf : Obligations.CommandBeatZeroIsFirstHalf := by
  intro s u b d en w htakes htreatment
  refine ⟨fun hzero => ?beatZero, fun hone hnone => ?beatOne⟩
  case beatZero =>
    have hbeat := commandBeat_zero hzero w.index d en u
    rw [exec_writeBeatDataTaken_command htakes htreatment (by simp [hbeat]), hbeat, setFirstHalf, htakes.intake_eq]
  case beatOne =>
    have hbeat := commandBeat_one_of_no_firstHalf hone (htakes.intake_eq ▸ hnone) w.index d en
    rw [exec_writeBeatDataTaken_command htakes htreatment (by rw [hbeat]; rfl), hbeat]

end Sys2Proof.Machine
end

section
/-! The Event Unit's derived flags: the highest-pending field and the two attention lines, in terms of the flags and the
pointer bytes (R35, R36). -/

namespace Sys2Proof.Machine

theorem State.eventCounts_iff (s : State) (n : Nat) :
    s.eventCounts n = true ↔ s.events.getLsbD n = true ∧ s.enables.getLsbD n = true := by
  rw [eventCounts, Bool.and_eq_true]

/-! ### The highest-pending field (R35) -/

/-- The field is the first of the sixteen numbers that counts. -/
theorem State.highestPending_of_lowest {s : State} {n : Nat} (hn : n < 16) (hcounts : s.eventCounts n = true)
    (hlowest : ∀ k, k < n → ¬ s.eventCounts k = true) : s.highestPending = n := by
  have hfind : (List.range 16).find? s.eventCounts = some n :=
    List.find?_range_eq_some.2 ⟨hcounts, List.mem_range.2 hn, fun k hk => by simpa using hlowest k hk⟩
  rw [highestPending, hfind, Option.getD_some]

theorem State.highestPending_of_none {s : State} (hnone : ∀ k, k < 16 → ¬ s.eventCounts k = true) :
    s.highestPending = 16 := by
  have hfind : (List.range 16).find? s.eventCounts = none :=
    List.find?_range_eq_none.2 fun k hk => by simpa using hnone k hk
  rw [highestPending, hfind, Option.getD_none]

/-! ### The attention lines (R36) -/

theorem linePointer_eq_attn0_iff (m : Mem) (n : Nat) : linePointer m n = .attn0 ↔ m.read (0x150 + n) = 1 := by
  unfold linePointer
  generalize m.read (0x150 + n) = p
  split
  case isTrue hzero => simp [hzero]
  case isFalse => simp

/-- Every pointer value from 2 up points at ATTN1 (R174). -/
theorem linePointer_eq_attn1_iff (m : Mem) (n : Nat) :
    linePointer m n = .attn1 ↔ 2 ≤ (m.read (0x150 + n)).toNat := by
  unfold linePointer
  generalize m.read (0x150 + n) = p
  split
  case isTrue hzero => simp [hzero]
  case isFalse hzero =>
    split
    case isTrue hone => simp [hone]
    case isFalse hone =>
      simp only [true_iff]
      bv_omega

theorem State.lineHigh_iff (s : State) (l : Line) :
    s.lineHigh l = true ↔ s.resetLow = false ∧ ∃ n, n < 16 ∧ s.events.getLsbD n = true ∧ s.enables.getLsbD n = true ∧
      linePointer s.anchor.bytes n = l := by
  simp [lineHigh, eventCounts_iff, and_assoc]

/-- Settles O24: the field is a search among the sixteen events, and a line asks each of them for its pointer. -/
theorem highestPendingAndLines : Obligations.HighestPendingAndLines := by
  intro s
  simp only [← s.eventCounts_iff]
  refine ⟨?lowest, State.highestPending_of_none, ?attn0, ?attn1⟩
  case lowest =>
    intro n hn hpending henabled hlowest
    exact State.highestPending_of_lowest hn ((s.eventCounts_iff n).2 ⟨hpending, henabled⟩) hlowest
  case attn0 =>
    simp only [← linePointer_eq_attn0_iff]
    exact s.lineHigh_iff .attn0
  case attn1 =>
    simp only [← linePointer_eq_attn1_iff]
    exact s.lineHigh_iff .attn1

end Sys2Proof.Machine
end

section
/-! The commands of the Song Clock: from a command row to the owner's operation, and the start of a loaded song (R42). -/

namespace Sys2Proof.Machine

/-! ### From the row to the operation (R23, R25, R26) -/

/-- With neither reset input low, a row hands its operation over. -/
theorem handOver_of_busUp {s : State} (hup : s.busUp = true) (f : State → State) : handOver f s = .next (f s) := by
  rw [handOver, if_pos hup]

/-- An operation changes the state as if no first half had been pending, and the record is written over that change. -/
theorem takeCommand_eq_afterCommand {slot : CmdSlot} {code : Byte} {op : State → CmdOutcome × State} {o : CmdOutcome}
    {s u : State} (h : op (setFirstHalf none s) = (o, setFirstHalf none u)) :
    takeCommand slot code op s = afterCommand slot code o u := by
  have hrecord : recordCommand slot code o (setFirstHalf none u) = afterCommand slot code o (setFirstHalf none u) :=
    recordCommand_eq slot code o (setFirstHalf none u) rfl
  rw [takeCommand, h, hrecord]
  rfl

/-! ### SONG_START (R42) -/

theorem songStartOp_of_loaded {s : State} (h : s.clock.state = .loaded) :
    songStartOp s = (.done, { s with clock := { s.clock with state := .armed } }) := by
  rw [songStartOp, if_pos h]

theorem songStartOp_of_not_loaded {s : State} (h : s.clock.state ≠ .loaded) : songStartOp s = (.refusedState, s) := by
  rw [songStartOp, if_neg h]

theorem exec_songStart {s : State} (hup : s.busUp = true) (slot : CmdSlot) :
    exec (.songStart slot) s = .next (takeCommand slot 0x11 songStartOp s) :=
  handOver_of_busUp hup _

/-- Settles O29: each branch of the operation, taken over the state whose first half is absent, with the record of its
outcome. -/
theorem songStartArmsLoadedSong : Obligations.SongStartArmsLoadedSong := by
  intro slot s hup
  rw [exec_songStart hup]
  refine ⟨fun hloaded => ?armed, fun hother => ?refused⟩
  case armed =>
    have harms : songStartOp (setFirstHalf none s) =
        (.done, setFirstHalf none { s with clock := { s.clock with state := .armed } }) := songStartOp_of_loaded hloaded
    rw [takeCommand_eq_afterCommand harms]
  case refused =>
    have hrefuses : songStartOp (setFirstHalf none s) = (.refusedState, setFirstHalf none s) :=
      songStartOp_of_not_loaded hother
    rw [takeCommand_refused slot 0x11 _ _ s hrefuses]

end Sys2Proof.Machine
end

section
/-! The Score Engine's matching table of parts (R115) and the clearing of its scoreboard (R126, R127). -/

namespace Sys2Proof.Machine

/-! ### The matching of parts: one row of R115's table for each part of a channel -/

@[simp] theorem Part.accepts_a_iff (p : Part) : Part.accepts .a p = true ↔ p = .a ∨ p = .both := by
  rw [Part.accepts, Bool.or_eq_true, decide_eq_true_iff, decide_eq_true_iff]

@[simp] theorem Part.accepts_b_iff (p : Part) : Part.accepts .b p = true ↔ p = .b ∨ p = .both := by
  rw [Part.accepts, Bool.or_eq_true, decide_eq_true_iff, decide_eq_true_iff]

@[simp] theorem Part.accepts_both (p : Part) : Part.accepts .both p = true := rfl

/-- A channel that is OFF is not scored. -/
@[simp] theorem Part.accepts_off (p : Part) : Part.accepts .off p = false := rfl

/-- Settles O36: the four rows of the table. -/
theorem partMatching : Obligations.PartMatching :=
  ⟨Part.accepts_a_iff, Part.accepts_b_iff, Part.accepts_both, Part.accepts_off⟩

/-! ### SCORE_CLEAR_BOARD (R127) -/

/-- The scoreboard after a clearing: the values of R126 at a cold reset, in every entry. -/
def clearedBoard : Vector BoardEntry 16 := Vector.replicate 16 BoardEntry.reset

theorem clearedBoard_getElem (h : Fin 16) : clearedBoard[h] = { completed := 0, last := 0, best := 0 } :=
  Vector.getElem_replicate h.isLt

/-- The operation has no check: it is DONE in every state, and changes the scoreboard and the score generation alone. -/
theorem clearBoardOp_eq (s : State) :
    clearBoardOp s = (.done, { s with score := { s.score with board := clearedBoard, gen := s.score.gen + 1 } }) := rfl

theorem exec_scoreClearBoard {s : State} (hup : s.busUp = true) (slot : CmdSlot) :
    exec (.scoreClearBoard slot) s = .next (takeCommand slot 0x20 clearBoardOp s) :=
  handOver_of_busUp hup _

/-- Settles O39: the operation leaves the pending first half alone, so its change is recorded over the state as it stands. -/
theorem clearBoardZeroesScoreboard : Obligations.ClearBoardZeroesScoreboard := by
  intro slot s hup
  have hclears : clearBoardOp (setFirstHalf none s) = (.done, setFirstHalf none
      { s with score := { s.score with board := clearedBoard, gen := s.score.gen + 1 } }) := clearBoardOp_eq _
  refine ⟨clearedBoard, clearedBoard_getElem, ?_⟩
  rw [exec_scoreClearBoard hup, takeCommand_eq_afterCommand hclears]

end Sys2Proof.Machine
end

section
/-! What a command can do to the state, said once: every command is a chain of moves, each the work of one block under
the guards that the command has tested. What every step keeps is then a statement about single moves. -/

namespace Sys2Proof.Machine

/-! ### Moves, block by block -/

/-- Bookkeeping: what no block's soundness depends on. -/
inductive RecordMove (s : State) : State → Prop
  | blocked (r : BusRequest) (a : Addr) (c : BlockCause) : RecordMove s (blockBeat r a c s)
  | firstHalf (h : Option FirstHalf) : RecordMove s (setFirstHalf h s)
  | command (slot : CmdSlot) (code : Byte) (o : CmdOutcome) : RecordMove s (recordCommand slot code o s)
  | assembly (a : Option Assembly) : RecordMove s (setAssembly a s)
  | garbled : RecordMove s (countGarbled s)
  | acknowledge (mask : Set16) : RecordMove s (acknowledge mask s)
  | coldRelease (sel : BitVec 2) : RecordMove s (coldRelease sel s)
  | busPin (low : Bool) : RecordMove s { s with busResetLow := low }
  | bands : RecordMove s (clearBands s)

/-- The bus path (R1, R2). -/
inductive BusMove (s : State) : State → Prop
  | list (r : BusRequest) (beats : List Beat) (room : s.canAccept = true) (length : beats.length = r.beats) :
      BusMove s (setBus { s.bus with
        list := s.bus.list ++ [newListed s.bus.nextSerial r beats], nextSerial := s.bus.nextSerial + 1 } s)
  | hold (r : Option BusRequest) : BusMove s (setBus { s.bus with held := r } s)
  | take (l : Listed) (d : Data) (en : Enables) (newest : s.bus.list.getLast? = some l) (awaits : l.dataTaken = false)
      (short : l.taken.length < l.beats.length) : BusMove s (setBus (s.bus.takeData l d en) s)
  | forward : BusMove s (forwardRun s)
  | complete (n : Nat) (fault : Bool) (data : List Data) : BusMove s (completeRun n fault data s)
  | leave (l : Listed) (rest : List Listed) (out : Option Completion) (oldest : s.bus.list = l :: rest) :
      BusMove s (setBus { s.bus with list := rest, uPort := out } s)
  | abandon : BusMove s (setBus s.bus.abandon s)

/-- The Anchor Shadow and the Melody Table (R12, R111). -/
inductive TableMove (s : State) : State → Prop
  | shadow (off : Nat) (d : Data) (en : Enables) : TableMove s (shadowBeat off d en s)
  | melody (f : Nat) (d : Data) (en : Enables) : TableMove s (melodyBeat f d en s)

/-- The Strip Store, the Timeline Table and the Lyric Compositor (chapters 4 and 5). -/
inductive LyricsMove (s : State) : State → Prop
  | strip (f : Nat) (d : Data) (en : Enables) : LyricsMove s (stripBeat f d en s)
  | timeline (f : Nat) (d : Data) (en : Enables) : LyricsMove s (timelineBeat f d en s)
  | scanout (f : Nat) : LyricsMove s (scanoutState f s)
  | free : LyricsMove s (freeStrips s)

/-- The Capture Framer and the Pitch Estimator (chapter 6). -/
inductive CaptureMove (s : State) : State → Prop
  | beat (c : Fin 4) (w : Win) (a : Addr) (d : Data) (en : Enables) : CaptureMove s (captureBeat c w a d en s)
  | append (c : Fin 4) (w : Win) (a : Addr) (d : Data) : CaptureMove s (appendBeat c w a d s)
  | post (c : Fin 4) : CaptureMove s (postFlight c s)
  | restart : CaptureMove s (restartFramers s)

/-- The Song Clock, with what a song's load, seek, end and posting do in the other blocks (chapter 3). -/
inductive SongMove (s : State) : State → Prop
  | playback (w : Win) (a : Addr) : SongMove s (playbackBeat w a s)
  | stall : SongMove s (expireStall s)
  | load (a : SongLoadArgs) (r : LoadRequest) (n : NowPlaying) (es : List Entry) (arguments : loadArguments a = some r)
      (loadable : s.clock.loadable = true) (take : s.queue.takeFor r = some (n, es)) : SongMove s (applyLoad r n es s)
  | start (loaded : s.clock.state = .loaded) : SongMove s { s with clock := { s.clock with state := .armed } }
  | seek (position line : Nat) (hline : line ≤ 4095) (within : position ≤ s.clock.duration)
      (runs : s.clock.state = .running ∨ s.clock.state = .stalled) : SongMove s (applySeek position line s)
  | ends (o : EndOutcome) (inProgress : s.clock.state.inProgress = true) : SongMove s (endSong o s)
  | post (p : Posting) (posting : s.score.posting = some p) : SongMove s (completePosting p.outcome s)
  | clearBoard : SongMove s (bumpScore 1 (clearBoard s))

/-- The Request Queue (sections 9.1 to 9.3). -/
inductive QueueMove (s : State) : State → Prop
  | add (position : Nat) (e : Entry) (fresh : s.queue.indexOfSong e.song = none) (room : s.queue.entries.length < 48) :
      QueueMove s (addEntry position e s)
  | remove (i : Nat) : QueueMove s (removeEntry i s)
  | merge (i : Nat) (e : Entry) (entry : s.queue.entries[i]? = some e) : QueueMove s (mergeEntry i e s)
  | move (i n : Nat) (e : Entry) (entry : s.queue.entries[i]? = some e) : QueueMove s (moveEntry i n e s)
  | confirm (i : Nat) (e : Entry) (entry : s.queue.entries[i]? = some e) :
      QueueMove s (standbyEvaluate (queueChanged (putEntry i { e with state := .queued } s)))
  | pin (i : Nat) (e : Entry) (p : Bool) (entry : s.queue.entries[i]? = some e) :
      QueueMove s (queueChanged (putEntry i { e with pin := p } s))
  | waiting (c : Bool) : QueueMove s (raiseIf c .requestWaiting s)

/-- The Handset Table (chapter 8). -/
inductive HandsetMove (s : State) : State → Prop
  | heard (h : Fin 16) : HandsetMove s (changeHandset h (s.handsets.records[h].heard s.timebase) s)
  | reply (h : Fin 16) (seq : Byte) (a : Answer) : HandsetMove s (writeReply h seq a s)
  | barred (h : Fin 16) (seq : Byte) (isBarred : s.handsets.records[h].state = .barred) : HandsetMove s (answerBarred h seq s)
  | battery (head : PacketHead) : HandsetMove s (copyBattery head s)
  | vote (h : Fin 16) : HandsetMove s (skipTest (putHandset h { s.handsets.records[h] with vote := true } s))
  | conclude (h : Fin 16) (seq : Byte) (a : Answer) (notBarred : s.handsets.records[h].state ≠ .barred) :
      HandsetMove s (concludePacket h seq a s)
  | presence (h : Fin 16) : HandsetMove s (expirePresence h s)
  | quiet (h : Fin 16) : HandsetMove s (expireQuiet h s)
  | release (h : Fin 16) (isBarred : s.handsets.records[h].state = .barred) :
      HandsetMove s (changeHandset h (s.handsets.records[h].release s.timebase) s)

/-- The Room Timer, with what a booking's begin and end do in the other blocks (section 9.6). -/
inductive RoomMove (s : State) : State → Prop
  | opens (r : Nat) (least : 60 ≤ r) (most : r ≤ 86400) : RoomMove s (applyRoomOpen r s)
  | extend (r : Nat) (least : 1 ≤ r) (opened : s.room.state = .opened) :
      RoomMove s (standbyEvaluate (setRoom .opened (min (s.room.remaining + r) 86400) s.room.timer s))
  | reopen (r : Nat) (least : 1 ≤ r) (most : r ≤ 86400) :
      RoomMove s (standbyEvaluate (raiseIfLow r (setRoom .opened r (some s.timebase) s)))
  | close : RoomMove s (vacateHandsets (clearQueue (setRoom .closed 0 none s)))
  | second : RoomMove s (expireSecond s)

/-- One move of one block. -/
inductive Move (s t : State) : Prop
  | record (h : RecordMove s t)
  | bus (h : BusMove s t)
  | table (h : TableMove s t)
  | lyrics (h : LyricsMove s t)
  | capture (h : CaptureMove s t)
  | song (h : SongMove s t)
  | queue (h : QueueMove s t)
  | handset (h : HandsetMove s t)
  | room (h : RoomMove s t)
  | reset (h : t = coldResetState s)

/-- A chain of moves. -/
abbrev Moves : State → State → Prop := Relation.ReflTransGen Move

theorem Moves.single {s t : State} (h : Move s t) : Moves s t := Relation.ReflTransGen.single h

/-! ### What each block's moves leave alone -/

theorem coldRelease_frame (sel : BitVec 2) (s : State) :
    (coldRelease sel s).bus = s.bus ∧ (coldRelease sel s).anchor = s.anchor ∧ (coldRelease sel s).lyrics = s.lyrics ∧
    (coldRelease sel s).melody = s.melody ∧ (coldRelease sel s).framers = s.framers ∧ (coldRelease sel s).flights = s.flights ∧
    (coldRelease sel s).clock = s.clock ∧ (coldRelease sel s).score = s.score ∧ (coldRelease sel s).queue = s.queue ∧
    (coldRelease sel s).handsets = s.handsets ∧ (coldRelease sel s).room = s.room ∧ (coldRelease sel s).pending = s.pending := by
  unfold coldRelease; split <;> simp

theorem RecordMove.frame {s t : State} (h : RecordMove s t) :
    t.bus = s.bus ∧ t.anchor = s.anchor ∧ t.lyrics = s.lyrics ∧ t.melody = s.melody ∧ t.framers = s.framers ∧
    t.flights = s.flights ∧ t.clock = s.clock ∧ t.score = s.score ∧ t.queue = s.queue ∧ t.handsets = s.handsets ∧
    t.room = s.room ∧ t.pending = s.pending := by
  cases h with
  | coldRelease sel => exact coldRelease_frame sel s
  | _ => simp

theorem forwardRun_frame (s : State) : forwardRun s = setBus (forwardRun s).bus s := by
  unfold forwardRun; split
  · rfl
  · split
    · rfl
    · split <;> rfl

theorem completeRun_frame (n : Nat) (fault : Bool) (data : List Data) (s : State) :
    completeRun n fault data s = setBus (completeRun n fault data s).bus s := by
  unfold completeRun; split
  · rfl
  · split <;> rfl

theorem BusMove.frame {s t : State} (h : BusMove s t) : t = setBus t.bus s := by
  cases h with
  | forward => exact forwardRun_frame s
  | complete n fault data => exact completeRun_frame n fault data s
  | _ => rfl

theorem TableMove.frame {s t : State} (h : TableMove s t) :
    t.bus = s.bus ∧ t.lyrics = s.lyrics ∧ t.framers = s.framers ∧ t.flights = s.flights ∧ t.clock = s.clock ∧
    t.score = s.score ∧ t.queue = s.queue ∧ t.handsets = s.handsets ∧ t.room = s.room ∧ t.pending = s.pending := by
  cases h <;> simp

theorem LyricsMove.frame {s t : State} (h : LyricsMove s t) :
    t.bus = s.bus ∧ t.anchor = s.anchor ∧ t.melody = s.melody ∧ t.framers = s.framers ∧ t.flights = s.flights ∧
    t.clock = s.clock ∧ t.score = s.score ∧ t.queue = s.queue ∧ t.handsets = s.handsets ∧ t.room = s.room ∧
    t.pending = s.pending := by
  cases h <;> simp

theorem CaptureMove.frame {s t : State} (h : CaptureMove s t) :
    t.bus = s.bus ∧ t.anchor = s.anchor ∧ t.lyrics = s.lyrics ∧ t.melody = s.melody ∧ t.clock = s.clock ∧
    t.queue = s.queue ∧ t.handsets = s.handsets ∧ t.room = s.room ∧ t.pending = s.pending := by
  cases h <;> simp

theorem SongMove.frame {s t : State} (h : SongMove s t) :
    t.bus = s.bus ∧ t.anchor = s.anchor ∧ t.melody = s.melody ∧ t.flights = s.flights ∧ t.room = s.room ∧
    t.pending = s.pending := by
  cases h <;> simp

theorem QueueMove.frame {s t : State} (h : QueueMove s t) :
    t.bus = s.bus ∧ t.anchor = s.anchor ∧ t.lyrics = s.lyrics ∧ t.melody = s.melody ∧ t.framers = s.framers ∧
    t.flights = s.flights ∧ t.clock = s.clock ∧ t.score = s.score ∧ t.handsets = s.handsets ∧ t.room = s.room ∧
    t.pending = s.pending := by
  cases h <;> simp

theorem HandsetMove.frame {s t : State} (h : HandsetMove s t) :
    t.bus = s.bus ∧ t.anchor = s.anchor ∧ t.lyrics = s.lyrics ∧ t.melody = s.melody ∧ t.framers = s.framers ∧
    t.flights = s.flights ∧ t.clock = s.clock ∧ t.score = s.score ∧ t.queue = s.queue ∧ t.room = s.room ∧
    t.pending = s.pending := by
  cases h <;> simp

theorem applyRoomOpen_score (r : Nat) (s : State) : (applyRoomOpen r s).score = (clearBoard s).score := by
  simp [applyRoomOpen, raiseIfLow, clearBoard]

theorem RoomMove.frame {s t : State} (h : RoomMove s t) :
    t.bus = s.bus ∧ t.anchor = s.anchor ∧ t.lyrics = s.lyrics ∧ t.melody = s.melody ∧ t.framers = s.framers ∧
    t.flights = s.flights ∧ t.clock = s.clock ∧ t.score.channels = s.score.channels ∧ t.score.result = s.score.result ∧
    t.score.posting = s.score.posting ∧ t.pending = s.pending := by
  cases h <;> simp [raiseIfLow, applyRoomOpen_score, clearBoard]

theorem Move.pending_eq {s t : State} (h : Move s t) : t.pending = s.pending := by
  cases h with
  | record h | table h | lyrics h | capture h | song h | queue h | handset h | room h => simp [h.frame]
  | bus h => rw [h.frame]; rfl
  | reset h => rw [h]; rfl

theorem Moves.pending_eq {s t : State} (h : Moves s t) : t.pending = s.pending := by
  induction h with
  | refl => rfl
  | tail _ hmove ih => rw [hmove.pending_eq, ih]

/-! ### Acceptance (R1) -/

theorem acceptBeat_moves (s0 : State) (r : BusRequest) (a : Addr) (s : State) : Moves s (acceptBeat s0 r a s).2 := by
  unfold acceptBeat
  split
  case h_1 c _ => exact .single (.record (.blocked r a c))
  case h_2 | h_3 => exact .refl
  case h_4 w role unit _ =>
    cases r.dir with
    | write => exact .refl
    | read =>
      cases role with
      | scanout => exact .single (.lyrics (.scanout (w.offset a)))
      | playback => exact .single (.song (.playback w a))
      | _ => exact .refl

theorem acceptBeats_moves (s0 : State) (r : BusRequest) (n : Nat) :
    ∀ (k : Nat) (s : State), Moves s (acceptBeats s0 r k n s).2 := by
  induction n with
  | zero => exact fun _ _ => .refl
  | succ n ih => exact fun k s => (acceptBeat_moves s0 r (beatAddr r k) s).trans (ih (k + 1) _)

theorem acceptBeats_length (s0 : State) (r : BusRequest) (n : Nat) :
    ∀ (k : Nat) (s : State), (acceptBeats s0 r k n s).1.length = n := by
  induction n with
  | zero => exact fun _ _ => rfl
  | succ n ih => exact fun k s => congrArg (· + 1) (ih (k + 1) _)

/-- The beats of an acceptance leave the bus path and the pins alone. -/
theorem acceptBeat_bus (s0 : State) (r : BusRequest) (a : Addr) (s : State) :
    (acceptBeat s0 r a s).2.bus = s.bus ∧ (acceptBeat s0 r a s).2.resetLow = s.resetLow ∧
      (acceptBeat s0 r a s).2.busResetLow = s.busResetLow := by
  unfold acceptBeat
  split
  case h_1 | h_2 | h_3 => simp
  case h_4 w role unit _ =>
    cases r.dir with
    | write => simp
    | read => cases role <;> simp [readBeat]

theorem acceptBeats_bus (s0 : State) (r : BusRequest) (n : Nat) :
    ∀ (k : Nat) (s : State), (acceptBeats s0 r k n s).2.bus = s.bus ∧ (acceptBeats s0 r k n s).2.resetLow = s.resetLow ∧
      (acceptBeats s0 r k n s).2.busResetLow = s.busResetLow := by
  induction n with
  | zero => exact fun _ _ => ⟨rfl, rfl, rfl⟩
  | succ n ih =>
    intro k s
    obtain ⟨hbus, hcold, hpin⟩ := acceptBeat_bus s0 r (beatAddr r k) s
    obtain ⟨ihbus, ihcold, ihpin⟩ := ih (k + 1) (acceptBeat s0 r (beatAddr r k) s).2
    exact ⟨ihbus.trans hbus, ihcold.trans hcold, ihpin.trans hpin⟩

theorem canAccept_congr {s t : State} (hbus : t.bus = s.bus) (hcold : t.resetLow = s.resetLow)
    (hpin : t.busResetLow = s.busResetLow) : t.canAccept = s.canAccept := by
  simp only [State.canAccept, State.busUp, hbus, hcold, hpin]

theorem accept_moves (r : BusRequest) {s : State} (h : s.canAccept = true) : Moves s (accept r s) := by
  obtain ⟨hbus, hcold, hpin⟩ := acceptBeats_bus s r r.beats 0 s
  refine (acceptBeats_moves s r r.beats 0 s).tail (.bus (.list r (acceptBeats s r 0 r.beats s).1 ?_ ?_))
  · rw [canAccept_congr hbus hcold hpin, h]
  · exact acceptBeats_length s r r.beats 0 s

theorem acceptHeld_moves (s : State) : Moves s (acceptHeld s) := by
  unfold acceptHeld
  split
  case h_1 r _ =>
    split
    case isTrue h => exact Relation.ReflTransGen.head (.bus (.hold none)) (accept_moves r h)
    case isFalse => exact .refl
  case h_2 => exact .refl

theorem presentRequest_moves (r : BusRequest) (s : State) : Moves s (presentRequest r s) := by
  unfold presentRequest
  split
  case isTrue =>
    split
    case isTrue h => exact accept_moves r h
    case isFalse =>
      split
      case isTrue => exact .single (.bus (.hold (some r)))
      case isFalse => exact .refl
  case isFalse => exact .refl

/-! ### Commands (R27) -/

/-- Moves that leave the bus path and the reset inputs alone. -/
structure Inner (s t : State) : Prop where
  moves : Moves s t
  bus : t.bus = s.bus
  cold : t.resetLow = s.resetLow
  pin : t.busResetLow = s.busResetLow

theorem Inner.refl (s : State) : Inner s s := ⟨.refl, rfl, rfl, rfl⟩

theorem Inner.trans {s t u : State} (h : Inner s t) (g : Inner t u) : Inner s u :=
  ⟨h.moves.trans g.moves, g.bus.trans h.bus, g.cold.trans h.cold, g.pin.trans h.pin⟩

theorem Inner.single {s t : State} (h : Move s t)
    (hport : t.bus = s.bus ∧ t.resetLow = s.resetLow ∧ t.busResetLow = s.busResetLow) : Inner s t :=
  ⟨.single h, hport.1, hport.2.1, hport.2.2⟩

theorem Inner.tail {s t u : State} (h : Inner s t) (g : Move t u)
    (hport : u.bus = t.bus ∧ u.resetLow = t.resetLow ∧ u.busResetLow = t.busResetLow) : Inner s u :=
  h.trans (.single g hport)

/-- An operation leaves the state, as every refusal does, or is DONE with a move that leaves the intake alone. -/
def OpMoves (op : State → CmdOutcome × State) : Prop :=
  ∀ s, (op s).2 = s ∨ (op s).1 = .done ∧ (op s).2.intake = s.intake ∧ Move s (op s).2 ∧
    (op s).2.bus = s.bus ∧ (op s).2.resetLow = s.resetLow ∧ (op s).2.busResetLow = s.busResetLow

theorem OpMoves.inner {op : State → CmdOutcome × State} (h : OpMoves op) (s : State) : Inner s (op s).2 := by
  rcases h s with h | ⟨-, -, hmove, hport⟩
  · rw [h]; exact .refl s
  · exact .single hmove hport

theorem songLoadOp_moves (a : SongLoadArgs) : OpMoves (songLoadOp a) := by
  intro s
  unfold songLoadOp
  split
  case h_1 => exact .inl rfl
  case h_2 r harguments =>
    split
    case isFalse => exact .inl rfl
    case isTrue hloadable =>
      split
      case h_1 => exact .inl rfl
      case h_2 n es htake => exact .inr ⟨rfl, by simp, .song (.load a r n es harguments hloadable htake), by simp⟩

theorem songStartOp_moves : OpMoves songStartOp := by
  intro s
  unfold songStartOp
  split
  case isTrue h => exact .inr ⟨rfl, by simp, .song (.start h), by simp⟩
  case isFalse => exact .inl rfl

theorem songSeekOp_moves (position : BitVec 32) (line : BitVec 16) : OpMoves (songSeekOp position line) := by
  intro s
  unfold songSeekOp
  split
  case isTrue => exact .inl rfl
  case isFalse h =>
    split
    case isTrue hruns => exact .inr ⟨rfl, by simp, .song (.seek _ _ (by omega) (by omega) hruns), by simp⟩
    case isFalse => exact .inl rfl

theorem songStopOp_moves : OpMoves songStopOp := by
  intro s
  unfold songStopOp
  split
  case isTrue h => exact .inr ⟨rfl, by simp, .song (.ends .stopped h), by simp⟩
  case isFalse => exact .inl rfl

theorem queueInsertOp_moves (a : InsertArgs) : OpMoves (queueInsertOp a) := by
  intro s
  unfold queueInsertOp
  split
  case h_1 => exact .inl rfl
  case h_2 r _ =>
    split_ifs with hclosed hsong hfull
    · exact .inl rfl
    · exact .inl rfl
    · exact .inl rfl
    · exact .inr ⟨rfl, by simp, .queue (.add r.position r.entry (by simpa [InsertRequest.entry] using hsong) (by omega)), by simp⟩

/-- The entry that a tag names stands at its place. -/
theorem Queue.entryOfTag_getElem? {q : Queue} {tag i : Nat} {e : Entry} (h : q.entryOfTag tag = some (i, e)) :
    q.entries[i]? = some e := by
  unfold entryOfTag at h
  split at h
  case h_1 => cases h
  case h_2 j _ =>
    obtain ⟨x, hx, hpair⟩ := Option.map_eq_some_iff.1 h
    cases hpair
    exact hx

theorem queueRemoveOp_moves (tag : Byte) : OpMoves (queueRemoveOp tag) := by
  intro s
  unfold queueRemoveOp
  split
  case h_1 => exact .inl rfl
  case h_2 =>
    split
    case h_1 => exact .inl rfl
    case h_2 i _ _ => exact .inr ⟨rfl, by simp, .queue (.remove i), by simp⟩

theorem queueMoveOp_moves (tag position : Byte) : OpMoves (queueMoveOp tag position) := by
  intro s
  unfold queueMoveOp
  split
  case h_1 t n _ _ =>
    split
    case h_1 => exact .inl rfl
    case h_2 i e he => exact .inr ⟨rfl, by simp, .queue (.move i n e (Queue.entryOfTag_getElem? he)), by simp⟩
  case h_2 => exact .inl rfl

theorem queueConfirmOp_moves (tag : Byte) : OpMoves (queueConfirmOp tag) := by
  intro s
  unfold queueConfirmOp
  split
  case h_1 => exact .inl rfl
  case h_2 =>
    split
    case h_1 => exact .inl rfl
    case h_2 i e he =>
      split
      case isTrue => exact .inr ⟨rfl, by simp, .queue (.confirm i e (Queue.entryOfTag_getElem? he)), by simp⟩
      case isFalse => exact .inl rfl

theorem queuePinOp_moves (tag setting : Byte) : OpMoves (queuePinOp tag setting) := by
  intro s
  unfold queuePinOp
  split
  case h_1 t p _ _ =>
    split
    case h_1 => exact .inl rfl
    case h_2 i e he =>
      by_cases hp : e.pin = p
      · exact .inl (if_pos hp)
      · rw [if_neg hp]; exact .inr ⟨rfl, by simp [putEntry], .queue (.pin i e p (Queue.entryOfTag_getElem? he)), by simp [putEntry]⟩
  case h_2 => exact .inl rfl

theorem handsetReleaseOp_moves (id : Byte) : OpMoves (handsetReleaseOp id) := by
  intro s
  simp only [handsetReleaseOp]
  split
  case isTrue => exact .inl rfl
  case isFalse =>
    split
    case isTrue h => exact .inr ⟨rfl, by simp, .handset (.release _ h), by simp⟩
    case isFalse => exact .inl rfl

theorem roomOpenOp_moves (seconds : BitVec 32) : OpMoves (roomOpenOp seconds) := by
  intro s
  unfold roomOpenOp
  split
  case isTrue => exact .inl rfl
  case isFalse h =>
    split
    case isTrue => exact .inr ⟨rfl, by simp, .room (.opens _ (by omega) (by omega)), by simp⟩
    case isFalse => exact .inl rfl

theorem roomExtendOp_moves (seconds : BitVec 32) : OpMoves (roomExtendOp seconds) := by
  intro s
  unfold roomExtendOp
  split
  case isTrue => exact .inl rfl
  case isFalse h =>
    split
    case h_1 hopened => exact .inr ⟨rfl, by simp, .room (.extend _ (by omega) hopened), by simp⟩
    case h_2 => exact .inr ⟨rfl, by simp [raiseIfLow], .room (.reopen _ (by omega) (by omega)), by simp [raiseIfLow]⟩
    case h_3 => exact .inl rfl

theorem roomCloseOp_moves : OpMoves roomCloseOp := by
  intro s
  unfold roomCloseOp
  split
  case isTrue => exact .inl rfl
  case isFalse => exact .inr ⟨rfl, by simp, .room .close, by simp⟩

theorem ackOp_moves (mask : Set16) : OpMoves (ackOp mask) := fun _ => .inr ⟨rfl, by simp [ackOp], .record (.acknowledge mask), by simp [ackOp]⟩

theorem clearBoardOp_moves : OpMoves clearBoardOp := fun _ => .inr ⟨rfl, by simp [clearBoardOp], .song .clearBoard, by simp [clearBoardOp]⟩

theorem unknownOp_moves : OpMoves unknownOp := fun _ => .inl rfl

theorem commandOp_moves (code : Byte) (b0 b1 : Data) : OpMoves (commandOp code b0 b1) := by
  unfold commandOp
  refine iteInduction (fun _ => ackOp_moves _) fun _ => ?_
  refine iteInduction (fun _ => songLoadOp_moves _) fun _ => ?_
  refine iteInduction (fun _ => songStartOp_moves) fun _ => ?_
  refine iteInduction (fun _ => songSeekOp_moves _ _) fun _ => ?_
  refine iteInduction (fun _ => songStopOp_moves) fun _ => ?_
  refine iteInduction (fun _ => clearBoardOp_moves) fun _ => ?_
  refine iteInduction (fun _ => queueInsertOp_moves _) fun _ => ?_
  refine iteInduction (fun _ => queueRemoveOp_moves _) fun _ => ?_
  refine iteInduction (fun _ => queueMoveOp_moves _ _) fun _ => ?_
  refine iteInduction (fun _ => queueConfirmOp_moves _) fun _ => ?_
  refine iteInduction (fun _ => queuePinOp_moves _ _) fun _ => ?_
  refine iteInduction (fun _ => handsetReleaseOp_moves _) fun _ => ?_
  refine iteInduction (fun _ => roomOpenOp_moves _) fun _ => ?_
  refine iteInduction (fun _ => roomExtendOp_moves _) fun _ => ?_
  exact iteInduction (fun _ => roomCloseOp_moves) fun _ => unknownOp_moves

theorem takeCommand_inner (slot : CmdSlot) (code : Byte) (op : State → CmdOutcome × State) (s : State)
    (h : OpMoves op) : Inner s (takeCommand slot code op s) := by
  have hfirst : Inner s (setFirstHalf none s) := .single (.record (.firstHalf none)) (by simp)
  exact (hfirst.trans (h.inner _)).tail (.record (.command slot code _)) (by simp [takeCommand])

theorem commandBeat_inner (entry : Fin 16) (off : Nat) (d : Data) (en : Enables) (s : State) :
    Inner s (commandBeat entry off d en s) := by
  have hfirst : ∀ h, Inner s (setFirstHalf h s) := fun h => .single (.record (.firstHalf h)) (by simp)
  have hincomplete : ∀ slot code, Inner s (refuseIncomplete slot code s) := fun slot code =>
    (hfirst none).tail (.record (.command slot code .incomplete)) (by simp [refuseIncomplete])
  simp only [commandBeat]
  split
  case isTrue => exact hfirst _
  case isFalse =>
    split
    case h_1 => exact hincomplete _ _
    case h_2 h _ =>
      split_ifs
      · unfold takeRecord
        split
        case isTrue => exact hfirst none
        case isFalse => exact takeCommand_inner _ _ _ s (commandOp_moves _ _ _)
      · exact hincomplete _ _
      · exact hincomplete _ _

/-! ### Packets (R135) -/

/-- Inner moves that leave the state of a handset alone. -/
def ProcessTo (h : Fin 16) (s t : State) : Prop :=
  Inner s t ∧ (t.handsets.records[h]).state = (s.handsets.records[h]).state

theorem ProcessTo.refl (h : Fin 16) (s : State) : ProcessTo h s s := ⟨.refl s, rfl⟩

theorem processRequest_inner (h k : Fin 16) (q : SongRequest) (s : State) : ProcessTo k s (processRequest h q s).2 := by
  simp only [processRequest]
  split
  case isTrue => exact .refl k s
  case isFalse =>
    split
    case h_1 i _ =>
      split
      case h_1 e he => exact ⟨.single (.queue (.merge i e he)) (by simp), by simp⟩
      case h_2 => exact .refl k s
    case h_2 hnone =>
      split
      case isTrue => exact .refl k s
      case isFalse =>
        split
        case isTrue => exact .refl k s
        case isFalse hroom =>
          have hadd : ∀ waits, Inner s (addEntry 0 (q.entry h waits) s) := fun waits =>
            .single (.queue (.add 0 _ hnone (by omega))) (by simp)
          exact ⟨(hadd _).tail (.queue (.waiting _)) (by simp [appendRequest, answerAppend]), by simp [appendRequest, answerAppend]⟩

theorem processCancel_inner (h k : Fin 16) (song : Nat) (s : State) : ProcessTo k s (processCancel h song s).2 := by
  simp only [processCancel]
  split
  case h_1 => exact .refl k s
  case h_2 i _ =>
    split
    case h_1 => exact .refl k s
    case h_2 => exact ⟨.single (.queue (.remove i)) (by simp), by simp⟩

/-- A record changed in a field other than its state leaves every handset's state. -/
theorem putHandset_state (h k : Fin 16) (r : Handset) (s : State) (hr : r.state = (s.handsets.records[h]).state) :
    ((putHandset h r s).handsets.records[k]).state = (s.handsets.records[k]).state := by
  rw [putHandset_record, setAt_get]
  split
  case isTrue hk => rw [hr, hk]
  case isFalse => rfl

theorem processVote_inner (h k : Fin 16) (song : Nat) (s : State) : ProcessTo k s (processVote h song s).2 := by
  simp only [processVote]
  split
  case isTrue =>
    split
    case isTrue => exact .refl k s
    case isFalse =>
      exact ⟨.single (.handset (.vote h)) (by simp), by rw [skipTest_records]; exact putHandset_state h k _ s rfl⟩
  case isFalse => exact .refl k s

theorem processQuery_inner (h k : Fin 16) (s : State) : ProcessTo k s (processQuery h s).2 := by
  simp only [processQuery]
  split
  case h_1 => exact .refl k s
  case h_2 => split <;> exact .refl k s

theorem handlePacket_inner (head : PacketHead) (process : Option (State → Answer × State)) (s : State)
    (hp : ∀ p, process = some p → ∀ u, ProcessTo head.handset u (p u).2) : Inner s (handlePacket head process s) := by
  simp only [handlePacket]
  split
  case isTrue => exact .single (.handset (.reply _ _ _)) (by simp)
  case isFalse =>
    have hheard : Inner s (changeHandset head.handset (s.handsets.records[head.handset].heard s.timebase) s) :=
      .single (.handset (.heard head.handset)) (by simp)
    generalize changeHandset head.handset (s.handsets.records[head.handset].heard s.timebase) s = u at hheard ⊢
    split_ifs with hbarred hrepeat
    · exact hheard.tail (.handset (.barred _ _ hbarred)) (by simp)
    · exact hheard
    · split
      case h_1 => exact hheard.tail (.handset (.conclude _ _ _ hbarred)) (by simp)
      case h_2 p =>
        obtain ⟨hmoves, hstate⟩ := hp p rfl u
        refine ((hheard.trans hmoves).tail (.handset (.battery head)) (by simp)).tail (.handset (.conclude _ _ _ ?_)) (by simp)
        rwa [copyBattery, putHandset_state _ _ _ _ (by rfl), hstate]

theorem requestPacket_inner (head : PacketHead) (f : RequestFields) (s : State) : Inner s (requestPacket head f s) := by
  refine handlePacket_inner head _ s fun p hp => ?_
  split at hp
  case isTrue =>
    obtain ⟨q, -, rfl⟩ := Option.map_eq_some_iff.1 hp
    exact processRequest_inner _ _ q
  case isFalse => cases hp

theorem cancelPacket_inner (head : PacketHead) (song : BitVec 24) (s : State) : Inner s (cancelPacket head song s) := by
  refine handlePacket_inner head _ s fun p hp => ?_
  split at hp
  case isTrue =>
    obtain ⟨n, -, rfl⟩ := Option.map_eq_some_iff.1 hp
    exact processCancel_inner _ _ n
  case isFalse => cases hp

theorem votePacket_inner (head : PacketHead) (song : BitVec 24) (s : State) : Inner s (votePacket head song s) := by
  refine handlePacket_inner head _ s fun p hp => ?_
  split at hp
  case isTrue =>
    obtain ⟨n, -, rfl⟩ := Option.map_eq_some_iff.1 hp
    exact processVote_inner _ _ n
  case isFalse => cases hp

theorem queryPacket_inner (head : PacketHead) (s : State) : Inner s (queryPacket head s) := by
  refine handlePacket_inner head _ s fun p hp => ?_
  split at hp
  case isTrue => cases hp; exact processQuery_inner _ _
  case isFalse => cases hp

theorem unknownPacket_inner (head : PacketHead) (s : State) : Inner s (unknownPacket head s) :=
  handlePacket_inner head none s fun _ hp => nomatch hp

theorem completePacket_inner (bs : List Byte) (s : State) : Inner s (completePacket bs s) := by
  simp only [completePacket]
  split_ifs
  · exact .refl s
  · exact .single (.record .garbled) (by simp)
  · exact requestPacket_inner _ _ s
  · exact cancelPacket_inner _ _ s
  · exact votePacket_inner _ _ s
  · exact queryPacket_inner _ s
  · exact unknownPacket_inner _ s

theorem receiveBeat_inner (entry : Fin 16) (f : Nat) (d : Data) (en : Enables) (s : State) :
    Inner s (receiveBeat entry f d en s) := by
  have hassembly : ∀ a, Inner s (setAssembly a s) := fun a => .single (.record (.assembly a)) (by simp)
  simp only [receiveBeat]
  split
  case h_1 =>
    split
    case isTrue => exact hassembly _
    case isFalse => exact .refl s
  case h_2 a _ =>
    split_ifs
    · exact (hassembly _).tail (.record .garbled) (by simp)
    · exact (hassembly none).trans (completePacket_inner _ _)
    · exact hassembly _
    · exact (hassembly none).tail (.record .garbled) (by simp)

/-! ### Write data (R1, R9) -/

theorem expireAllPresence_inner (s : State) : Inner s (expireAllPresence s) := by
  unfold expireAllPresence
  generalize List.finRange 16 = l
  induction l generalizing s with
  | nil => exact .refl s
  | cons h l ih => exact .trans (.single (.handset (.presence h)) (by simp)) (ih _)

theorem deliver_inner (dest : Dest) (a : Addr) (d : Data) (en : Enables) (s : State) : Inner s (deliver dest a d en s) := by
  cases dest with
  | anchor =>
    have hshadow : Inner s (shadowBeat (a.toNat % 4096) d en s) := .single (.table (.shadow _ d en)) (by simp)
    simp only [deliver, anchorBeat]
    split
    case isTrue => exact hshadow
    case isFalse => exact hshadow.trans (expireAllPresence_inner _)
  | strip w => exact .single (.lyrics (.strip _ d en)) (by simp [deliver])
  | timeline w => exact .single (.lyrics (.timeline _ d en)) (by simp [deliver])
  | melody w => exact .single (.table (.melody _ d en)) (by simp [deliver])
  | capture c w => exact .single (.capture (.beat c w a d en)) (by simp [deliver])
  | playback w => exact .refl s
  | receive w => exact receiveBeat_inner _ _ d en s
  | command w => exact commandBeat_inner _ _ d en s

theorem deliverBeat_inner (b : Beat) (d : Data) (en : Enables) (s : State) : Inner s (deliverBeat b d en s) := by
  unfold deliverBeat
  split
  case h_1 dest _ => exact deliver_inner dest _ d en s
  all_goals exact .refl s

theorem takeBeat_moves (d : Data) (en : Enables) (s : State) : Moves s (takeBeat d en s) := by
  unfold takeBeat
  split
  case h_1 => exact .refl
  case h_2 l hl =>
    split
    case isTrue => exact .refl
    case isFalse hawaits =>
      split
      case h_1 => exact .refl
      case h_2 b hb =>
        have hshort : l.taken.length < l.beats.length := (List.getElem?_eq_some_iff.1 hb).1
        have htake : Moves s (setBus (s.bus.takeData l d en) s) :=
          .single (.bus (.take l d en hl (by simpa using hawaits) hshort))
        exact (htake.trans (deliverBeat_inner b d en _).moves).trans (acceptHeld_moves _)

theorem leave_moves (s : State) : Moves s (leave s) := by
  unfold leave
  split
  case h_1 => exact .refl
  case h_2 l rest hlist =>
    split
    case isTrue => exact .head (.bus (.leave l rest _ hlist)) (acceptHeld_moves _)
    case isFalse => exact .refl

/-! ### Resets and timers -/

theorem busResetState_moves (s : State) : Moves s (busResetState s) := by
  have hpin : ∀ u : State, Move u { u with busResetLow := true } := fun u => .record (.busPin true)
  unfold busResetState
  split_ifs
  · exact .refl
  · exact .single (hpin s)
  · refine Relation.ReflTransGen.tail ?_ (hpin _)
    have hdropped : Moves s (setAssembly none (setFirstHalf none (setBus s.bus.abandon s))) :=
      ((Moves.single (.bus .abandon)).tail (.record (.firstHalf none))).tail (.record (.assembly none))
    simp only [busResetBlocks]
    generalize setAssembly none (setFirstHalf none (setBus s.bus.abandon s)) = u at hdropped ⊢
    have hends : Moves s (if u.clock.state.inProgress then endSong .reset u else u) := by
      split
      case isTrue h => exact hdropped.tail (.song (.ends .reset h))
      case isFalse => exact hdropped
    exact ((hends.tail (.lyrics .free)).tail (.capture .restart)).tail (.record .bands)

theorem postEstimate_moves (c : Fin 4) (s : State) : Moves s (postEstimate c s) := by
  unfold postEstimate
  split
  case isTrue => exact .refl
  case isFalse => exact .single (.capture (.post c))

theorem postResult_moves (s : State) : Moves s (postResult s) := by
  unfold postResult
  split
  case h_1 p hp => exact .single (.song (.post p hp))
  case h_2 => exact .refl

theorem frameBeat_moves (c : Fin 4) (d : Data) (s : State) : Moves s (frameBeat c d s) := by
  rcases frameBeat_cases c d s with ⟨i, a, -, -, -, happend⟩ | ⟨hkept, -⟩
  · rw [happend]; exact .single (.capture (.append c _ a d))
  · rw [hkept]

/-! ### Rows -/

/-- A row that hands an operation over moves as the operation does, or is turned away. -/
theorem handOver_moves {f : State → State} {s t : State} (hf : ∀ u, Moves u (f u)) (h : handOver f s = .next t) : Moves s t := by
  unfold handOver at h
  injection h with h
  split at h
  case isTrue => exact h ▸ hf s
  case isFalse => exact h ▸ .refl

theorem handOver_packet_moves {f : State → State} {s t : State} (hf : ∀ u, Inner u (f u))
    (h : handOver (fun u => f (setAssembly none u)) s = .next t) : Moves s t :=
  handOver_moves (fun _ => .head (.record (.assembly none)) (hf _).moves) h

/-- Every command is a chain of moves. -/
theorem exec_moves (i : Instr) {s t : State} (h : exec i s = .next t) : Moves s t := by
  have hnext : ∀ {u : State}, Host.Outcome.next u = (.next t : Host.Outcome State Fault Refusal) → Moves s u → Moves s t := by
    intro _ hu hm
    injection hu with hu
    exact hu ▸ hm
  have hrow : ∀ {slot code op}, OpMoves op → handOver (takeCommand slot code op) s = .next t →
      Moves s t := fun hop hh => handOver_moves (fun _ => (takeCommand_inner _ _ _ _ hop).moves) hh
  cases i with
  | requestAccept r =>
    simp only [exec, execRequestAccept] at h
    split at h
    case isTrue => exact hnext h (presentRequest_moves r s)
    case isFalse => cases h
  | writeBeatDataTaken d en => exact hnext h (takeBeat_moves d en s)
  | runForward => exact hnext h (.single (.bus .forward))
  | runCompletion n fault data => exact hnext h (.single (.bus (.complete n fault data)))
  | completionLeave => exact hnext h (leave_moves s)
  | coldReset => exact hnext h (.single (.reset rfl))
  | coldResetRelease sel => exact hnext h (.single (.record (.coldRelease sel)))
  | busReset => exact hnext h (busResetState_moves s)
  | busResetRelease => exact hnext h (.single (.record (.busPin false)))
  | unknown slot code =>
    simp only [exec, execUnknown] at h
    split at h
    case isTrue => exact hrow unknownOp_moves h
    case isFalse => cases h
  | ackEvents slot mask => exact hrow (ackOp_moves mask) h
  | songLoad slot a => exact hrow (songLoadOp_moves a) h
  | songStart slot => exact hrow songStartOp_moves h
  | songSeek slot position line => exact hrow (songSeekOp_moves position line) h
  | songStop slot => exact hrow songStopOp_moves h
  | scoreClearBoard slot => exact hrow clearBoardOp_moves h
  | queueInsert slot a => exact hrow (queueInsertOp_moves a) h
  | queueRemove slot tag => exact hrow (queueRemoveOp_moves tag) h
  | queueMove slot tag position => exact hrow (queueMoveOp_moves tag position) h
  | queueConfirm slot tag => exact hrow (queueConfirmOp_moves tag) h
  | queuePin slot tag setting => exact hrow (queuePinOp_moves tag setting) h
  | handsetRelease slot id => exact hrow (handsetReleaseOp_moves id) h
  | roomOpen slot seconds => exact hrow (roomOpenOp_moves seconds) h
  | roomExtend slot seconds => exact hrow (roomExtendOp_moves seconds) h
  | roomClose slot => exact hrow roomCloseOp_moves h
  | stallTimerExpiry => exact hnext h (.single (.song .stall))
  | frameComplete c d => exact handOver_moves (frameBeat_moves c d) h
  | estimatePosting c => exact hnext h (postEstimate_moves c s)
  | resultPostingComplete => exact hnext h (postResult_moves s)
  | request head fields => exact handOver_packet_moves (requestPacket_inner head fields) h
  | cancel head song => exact handOver_packet_moves (cancelPacket_inner head song) h
  | voteSkip head song => exact handOver_packet_moves (votePacket_inner head song) h
  | query head => exact handOver_packet_moves (queryPacket_inner head) h
  | packetUnknownKind head kind =>
    simp only [exec, execPacketUnknownKind] at h
    split at h
    case isTrue => cases h
    case isFalse => exact handOver_packet_moves (unknownPacket_inner head) h
  | presenceExpiry k => exact hnext h (.single (.handset (.presence k)))
  | quietIntervalExpiry k => exact hnext h (.single (.handset (.quiet k)))
  | roomSecondExpiry => exact hnext h (.single (.room .second))

/-! ### Steps -/

/-- What every move keeps, and what depends on neither the timebase nor the model's own counts and commands, every step
keeps. -/
theorem step_keeps {P : State → Prop} (hmove : ∀ s t, Move s t → P s → P t)
    (hown : ∀ s now n l, P s → P { s with timebase := now, choices := n, pending := l }) {s t : State} (hs : P s)
    (h : step s = .next t) : P t := by
  have hmoves : ∀ {u v : State}, Moves u v → P u → P v := by
    intro u v hm hu
    induction hm with
    | refl => exact hu
    | tail _ hlast ih => exact hmove _ _ hlast ih
  unfold step at h
  split at h
  case h_1 =>
    unfold idle at h
    split at h
    case h_1 c _ => exact hmoves (exec_moves c h) (hown s s.timebase (s.choices + 1) s.pending hs)
    case h_2 =>
      injection h with h
      rw [← h, tick]
      split
      case isTrue => exact hs
      case isFalse => exact hown s (s.timebase + 1) s.choices s.pending hs
  case h_2 c rest _ => exact hmoves (exec_moves c h) (hown s s.timebase s.choices rest hs)

end Sys2Proof.Machine
end

section
/-! The state after a reset, and the invariants of the Room Timer and the Capture Framer, move by move. -/

namespace Sys2Proof.Machine

/-! ### Tables with a fixed number of members -/

theorem forall_setAt {α : Type} {n : Nat} {p : α → Prop} {v : Vector α n} (hv : ∀ i : Fin n, p v[i]) (k : Fin n) {x : α}
    (hx : p x) (i : Fin n) : p (setAt v k x)[i] := by
  rw [setAt_get]
  split
  case isTrue => exact hx
  case isFalse => exact hv i

theorem forall_mapAll {α β : Type} {n : Nat} {p : β → Prop} {f : α → β} {v : Vector α n} (hv : ∀ i : Fin n, p (f v[i]))
    (i : Fin n) : p (mapAll f v)[i] := by
  rw [mapAll_get]
  exact hv i

theorem replicate_get {α : Type} {n : Nat} (x : α) (i : Fin n) : (Vector.replicate n x)[i] = x :=
  Vector.getElem_replicate i.isLt

/-! ### After a reset (R19) -/

theorem memoriesCanonical_reset : MemoriesCanonical State.reset :=
  ⟨rfl, rfl, rfl, fun b => by simp [State.reset, Lyrics.reset, Mem.wf, Mem.wfFrom]⟩

theorem handsetsSound_reset : HandsetsSound State.reset := fun h => by
  simp [State.reset, Handsets.reset, Handset.Sound, Handset.reset]

theorem queueSound_reset : QueueSound State.reset := by
  simp [QueueSound, State.reset, Queue.reset, Queue.playingTag]

theorem chainSound_reset : ChainSound State.reset := by
  simp [ChainSound, State.reset, Lyrics.reset]

theorem busSound_reset : BusSound State.reset := by
  simp [BusSound, State.reset, BusPath.reset]

theorem clockSound_reset : ClockSound State.reset := by
  simp [ClockSound, State.reset, SongClock.reset, Score.reset, Queue.reset, SongState.inProgress]

theorem scoresSound_reset : ScoresSound State.reset := by
  simp [ScoresSound, State.reset, Score.reset, Channel.Sound, Channel.reset, LastResult.reset, BoardEntry.reset]

theorem framersSound_reset : FramersSound State.reset := by
  simp [FramersSound, State.reset, Framer.reset]

theorem roomSound_reset : RoomSound State.reset := ⟨rfl, rfl⟩

/-- Settles O60, invariant by invariant. -/
theorem resetIsSound : Obligations.ResetIsSound :=
  ⟨memoriesCanonical_reset, handsetsSound_reset, queueSound_reset, chainSound_reset, busSound_reset, clockSound_reset,
    scoresSound_reset, framersSound_reset, roomSound_reset⟩

/-! ### The room (R167, R168) -/

theorem RoomSound.congr {s t : State} (hs : RoomSound s) (h : t.room = s.room) : RoomSound t := by
  simpa only [RoomSound, h] using hs

@[simp] theorem setRoom_room (st : RoomState) (r : Nat) (x : Option Count32) (s : State) :
    (setRoom st r x s).room = { state := st, remaining := r, timer := x } := rfl

@[simp] theorem applyRoomOpen_room (r : Nat) (s : State) :
    (applyRoomOpen r s).room = { state := .opened, remaining := r, timer := some s.timebase } := by
  simp [applyRoomOpen, raiseIfLow]

/-- The countdown reaches 0 in OVERTIME, and stays above it in OPEN. -/
theorem applySecond_room (r : Nat) (s : State) :
    (applySecond r s).room =
      if r = 0 then { state := .overtime, remaining := 0, timer := none }
      else { state := .opened, remaining := r, timer := some s.timebase } := by
  simp only [applySecond]
  split_ifs <;> simp

theorem RoomMove.keeps_room {s t : State} (h : RoomMove s t) (hs : RoomSound s) : RoomSound t := by
  cases h with
  | opens r least most =>
    simp only [RoomSound, applyRoomOpen_room]
    exact ⟨by omega, most, rfl⟩
  | extend r least opened =>
    obtain ⟨hleast, -, htimer⟩ : 1 ≤ s.room.remaining ∧ s.room.remaining ≤ 86400 ∧ s.room.timer.isSome = true := by
      simpa only [RoomSound, opened] using hs
    simp only [RoomSound, standbyEvaluate_frame, setRoom_room]
    exact ⟨by omega, by omega, htimer⟩
  | reopen r least most =>
    simp only [RoomSound, raiseIfLow, standbyEvaluate_frame, raiseIf_frame, setRoom_room]
    exact ⟨least, most, rfl⟩
  | close => simp [RoomSound]
  | second =>
    unfold expireSecond
    split
    case isFalse => exact hs
    case isTrue hdue =>
      have hopened : s.room.state = .opened := by simpa using (Bool.and_eq_true_iff.1 hdue).1
      obtain ⟨-, hmost, -⟩ : 1 ≤ s.room.remaining ∧ s.room.remaining ≤ 86400 ∧ s.room.timer.isSome = true := by
        simpa only [RoomSound, hopened] using hs
      rw [RoomSound, applySecond_room]
      by_cases hzero : s.room.remaining - 1 = 0
      · rw [if_pos hzero]; exact ⟨rfl, rfl⟩
      · rw [if_neg hzero]; exact ⟨Nat.one_le_iff_ne_zero.2 hzero, (Nat.sub_le _ _).trans hmost, rfl⟩

theorem Move.keeps_room {s t : State} (h : Move s t) (hs : RoomSound s) : RoomSound t := by
  cases h with
  | record h | table h | lyrics h | capture h | song h | queue h | handset h => exact hs.congr (by simp [h.frame])
  | bus h => exact hs.congr (by rw [h.frame]; rfl)
  | room h => exact h.keeps_room hs
  | reset h => exact roomSound_reset.congr (by rw [h]; rfl)

/-! ### Frames in progress and estimates in flight (R94, R98) -/

/-- A frame in progress: fewer than 512 samples, four a beat. -/
def Framer.Sound (f : Framer) : Prop := f.samples.length < 512 ∧ f.samples.length % 4 = 0 ∧ f.gaps ≤ 65535

theorem Framer.sound_mk {e : Option (Fin 16 × Addr)} {x : List (BitVec 16)} {gaps : Nat} (hshort : x.length < 512)
    (hfours : x.length % 4 = 0) (hgaps : gaps ≤ 65535) : Framer.Sound { expected := e, samples := x, gaps := gaps } :=
  ⟨hshort, hfours, hgaps⟩

/-- An estimate in flight, if there is one, is of a whole frame. -/
def FlightSound (f : Option Flight) : Prop := ∀ x, f = some x → x.samples.length = 512

theorem framersSound_iff (s : State) :
    FramersSound s ↔ (∀ c : Fin 4, (s.framers[c]).Sound) ∧ ∀ c : Fin 4, FlightSound s.flights[c] := Iff.rfl

theorem FramersSound.congr {s t : State} (hs : FramersSound s) (hframers : t.framers = s.framers)
    (hflights : t.flights = s.flights) : FramersSound t := by
  simpa only [FramersSound, hframers, hflights] using hs

theorem FramersSound.raise {s : State} (hs : FramersSound s) (e : Event) : FramersSound (raise e s) :=
  hs.congr (by simp) (by simp)

theorem beatSamples_length (d : Data) : (beatSamples d).length = 4 := rfl

theorem postFlight_flights (c : Fin 4) (s : State) :
    (postFlight c s).flights = s.flights ∨ (postFlight c s).flights = setAt s.flights c none := by
  unfold postFlight
  split
  case h_1 => exact .inl rfl
  case h_2 => exact .inr (by simp [putFlight])

theorem FramersSound.postFlight {s : State} (hs : FramersSound s) (c : Fin 4) : FramersSound (postFlight c s) := by
  rcases postFlight_flights c s with h | h
  · exact hs.congr (by simp) h
  · rw [framersSound_iff, h]
    exact ⟨by simpa only [postFlight_frame, Framer.Sound] using hs.1, forall_setAt hs.2 c fun x hx => nomatch hx⟩

theorem FramersSound.putFramer {s : State} (hs : FramersSound s) (c : Fin 4) {f : Framer} (hf : f.Sound) :
    FramersSound (putFramer c f s) := ⟨forall_setAt hs.1 c hf, hs.2⟩

theorem FramersSound.completeFrame {s : State} (hs : FramersSound s) (c : Fin 4) {x : List (BitVec 16)} (hx : x.length = 512) :
    FramersSound (completeFrame c x s) :=
  have hflight : FlightSound (some ((Machine.postFlight c s).flightOf x)) := fun f hf => by cases hf; exact hx
  ⟨(hs.postFlight c).1, forall_setAt (hs.postFlight c).2 c hflight⟩

theorem FramersSound.appendBeat {s : State} (hs : FramersSound s) (c : Fin 4) (w : Win) (a : Addr) (d : Data) :
    FramersSound (appendBeat c w a d s) := by
  obtain ⟨hshort, hfours, hgaps⟩ := hs.1 c
  have hlength : (s.framers[c].samples ++ beatSamples d).length = s.framers[c].samples.length + 4 := by
    rw [List.length_append, beatSamples_length]
  simp only [Machine.appendBeat]
  split
  case isTrue h => exact (hs.putFramer c (Framer.sound_mk (by simp) rfl hgaps)).completeFrame c h
  case isFalse h => exact hs.putFramer c (Framer.sound_mk (by omega) (by omega) hgaps)

theorem FramersSound.captureGap {s : State} (hs : FramersSound s) (c : Fin 4) (w : Win) (a : Addr) (d : Data) (whole : Bool) :
    FramersSound (captureGap c w a d whole s) := by
  have hsamples : (if whole = true then beatSamples d else []).length < 512 ∧
      (if whole = true then beatSamples d else []).length % 4 = 0 := by
    cases whole <;> simp [beatSamples_length]
  exact (hs.putFramer c (Framer.sound_mk hsamples.1 hsamples.2 (Nat.min_le_right _ 65535))).raise .captureGap

theorem FramersSound.captureBeat {s : State} (hs : FramersSound s) (c : Fin 4) (w : Win) (a : Addr) (d : Data) (en : Enables) :
    FramersSound (captureBeat c w a d en s) := by
  simp only [Machine.captureBeat]
  split
  case h_1 =>
    split
    case isTrue => exact (hs.putFramer c (Framer.sound_mk (by simp) rfl (hs.1 c).2.2)).appendBeat c w a d
    case isFalse => exact hs
  case h_2 =>
    split
    case isTrue => exact hs.appendBeat c w a d
    case isFalse => exact hs.captureGap c w a d _

theorem FramersSound.restart {s t : State} (hs : FramersSound s) (hframers : t.framers = mapAll Framer.restart s.framers)
    (hflights : t.flights = s.flights) : FramersSound t := by
  rw [framersSound_iff, hframers, hflights]
  exact ⟨forall_mapAll fun c => Framer.sound_mk (by simp) rfl (hs.1 c).2.2, hs.2⟩

theorem CaptureMove.keeps_framers {s t : State} (h : CaptureMove s t) (hs : FramersSound s) : FramersSound t := by
  cases h with
  | beat c w a d en => exact hs.captureBeat c w a d en
  | append c w a d => exact hs.appendBeat c w a d
  | post c => exact hs.postFlight c
  | restart => exact hs.restart rfl rfl

/-- A load alone restarts the framers (R99). -/
theorem SongMove.framers_cases {s t : State} (h : SongMove s t) :
    t.framers = s.framers ∨ t.framers = mapAll Framer.restart s.framers := by
  cases h with
  | load a r n es => exact .inr (by rw [applyLoad_eq])
  | _ => exact .inl (by simp)

theorem Move.keeps_framers {s t : State} (h : Move s t) (hs : FramersSound s) : FramersSound t := by
  cases h with
  | record h | table h | lyrics h | queue h | handset h | room h => exact hs.congr (by simp [h.frame]) (by simp [h.frame])
  | bus h => exact hs.congr (by rw [h.frame]; rfl) (by rw [h.frame]; rfl)
  | capture h => exact h.keeps_framers hs
  | song h =>
    rcases h.framers_cases with hf | hf
    · exact hs.congr hf (by simp [h.frame])
    · exact hs.restart hf (by simp [h.frame])
  | reset h => exact framersSound_reset.congr (by rw [h]; rfl) (by rw [h]; rfl)

/-- Settles O59, move by move. -/
theorem stepKeepsFramersAndRoomSound : Obligations.StepKeepsFramersAndRoomSound :=
  ⟨fun _ _ hs h => step_keeps (fun _ _ hm => hm.keeps_framers) (fun _ _ _ _ hp => hp) hs h,
    fun _ _ hs h => step_keeps (fun _ _ hm => hm.keeps_room) (fun _ _ _ _ hp => hp) hs h⟩

end Sys2Proof.Machine
end

section
/-! The invariants of the byte stores and of the display chain, move by move. -/

namespace Sys2Proof.Machine

/-! ### What a song's moves do to the lyrics (R70, R71) -/

/-- A load and a seek clear the chain; no other move of a song reaches the lyrics. -/
theorem SongMove.lyrics_cases {s t : State} (h : SongMove s t) :
    t.lyrics = s.lyrics ∨ ∃ line, line ≤ 4095 ∧ t.lyrics = (clearChain line s).lyrics := by
  cases h with
  | load a r n es => exact .inr ⟨0, by omega, by simp [applyLoad, clearChain]⟩
  | seek position line hline =>
    refine .inr ⟨line, hline, ?_⟩
    simp only [applySeek]
    split <;> simp [clearChain]
  | _ => exact .inl (by simp)

/-! ### Byte stores -/

theorem MemoriesCanonical.congr {s t : State} (hs : MemoriesCanonical s) (hanchor : t.anchor.bytes = s.anchor.bytes)
    (hmelody : t.melody = s.melody) (hlyrics : s.lyrics.SameBytes t.lyrics) : MemoriesCanonical t := by
  obtain ⟨htimeline, hstrips⟩ := hlyrics
  simpa only [MemoriesCanonical, hanchor, hmelody, htimeline, hstrips] using hs

theorem MemoriesCanonical.same {s t : State} (hs : MemoriesCanonical s) (hanchor : t.anchor = s.anchor)
    (hmelody : t.melody = s.melody) (hlyrics : t.lyrics = s.lyrics) : MemoriesCanonical t :=
  hs.congr (by rw [hanchor]) hmelody (by rw [hlyrics]; exact .refl _)

@[simp] theorem touchEntry_bytes (i : Fin 16) (s : State) : (touchEntry i s).anchor.bytes = s.anchor.bytes := by
  unfold touchEntry
  split_ifs <;> simp

theorem shadowBeat_bytes (off : Nat) (d : Data) (en : Enables) (s : State) :
    (shadowBeat off d en s).anchor.bytes = s.anchor.bytes ∨
      (shadowBeat off d en s).anchor.bytes = s.anchor.bytes.writeBeat off d en := by
  simp only [shadowBeat]
  split_ifs <;> simp

theorem TableMove.keeps_memories {s t : State} (h : TableMove s t) (hs : MemoriesCanonical s) : MemoriesCanonical t := by
  obtain ⟨hanchor, hmelody, htimeline, hstrips⟩ := hs
  cases h with
  | shadow off d en =>
    refine ⟨?_, by simpa using hmelody, by simpa using htimeline, by simpa using hstrips⟩
    rcases shadowBeat_bytes off d en s with h | h
    · rw [h]; exact hanchor
    · rw [h]; exact Mem.writeBeat_wf hanchor off d en
  | melody f d en => exact ⟨hanchor, Mem.writeBeat_wf hmelody _ d en, htimeline, hstrips⟩

theorem runCompletionCheck_bytes (b : Fin 4) (s : State) : s.lyrics.SameBytes (runCompletionCheck b s).lyrics := by
  unfold runCompletionCheck
  split
  case isTrue => exact Lyrics.setState_bytes _ b .ready
  case isFalse => simpa using Lyrics.setState_bytes s.lyrics b .free

/-- A strip beat that stores bytes, before the check that a submission runs (R59). -/
def stripStored (b : Fin 4) (p : Nat) (d : Data) (sel : Nat → Bool) (s : State) : State :=
  let stored : StripBuf :=
    { state := storedState s.lyrics.strips[b].state p, bytes := s.lyrics.strips[b].bytes.writeWhere p d sel }
  { s with lyrics := { s.lyrics with strips := setAt s.lyrics.strips b stored } }

/-- A strip beat does nothing, or stores bytes in a buffer that is not SHOWN and may then run its check. -/
theorem stripBeat_cases (f : Nat) (d : Data) (en : Enables) (s : State) :
    stripBeat f d en s = s ∨ ∃ b p sel, (s.lyrics.strips[b]).state ≠ .shown ∧
      (stripBeat f d en s = stripStored b p d sel s ∨
        stripBeat f d en s = runCompletionCheck b (stripStored b p d sel s)) := by
  simp only [stripBeat]
  split
  case isTrue => exact .inl rfl
  case isFalse h =>
    refine .inr ⟨Fin.ofNat 4 (f / 65536), f % 65536, storesByte (f % 65536) (coverageLimit s.anchor.bytes) en, fun hshown => h (.inl hshown), ?_⟩
    split
    case isTrue => exact .inr rfl
    case isFalse => exact .inl rfl

theorem MemoriesCanonical.stripStored {s : State} (hs : MemoriesCanonical s) (b : Fin 4) (p : Nat) (d : Data)
    (sel : Nat → Bool) : MemoriesCanonical (stripStored b p d sel s) := by
  obtain ⟨hanchor, hmelody, htimeline, hstrips⟩ := hs
  exact ⟨hanchor, hmelody, htimeline,
    forall_setAt (p := fun x : StripBuf => x.bytes.wf = true) hstrips b (Mem.writeWhere_wf (hstrips b) p d sel)⟩

theorem freeStrips_bytes (s : State) : s.lyrics.SameBytes (freeStrips s).lyrics :=
  ⟨rfl, fun b => by simp [freeStrips]⟩

theorem clearChain_bytes (line : Nat) (s : State) : s.lyrics.SameBytes (clearChain line s).lyrics :=
  ⟨rfl, fun b => by rw [(clearChain_cleared line s).2 b]⟩

theorem LyricsMove.keeps_memories {s t : State} (h : LyricsMove s t) (hs : MemoriesCanonical s) : MemoriesCanonical t := by
  cases h with
  | strip f d en =>
    rcases stripBeat_cases f d en s with h | ⟨b, p, sel, -, h | h⟩
    · rw [h]; exact hs
    · rw [h]; exact hs.stripStored b p d sel
    · rw [h]
      exact (hs.stripStored b p d sel).congr (by simp) (by simp) (runCompletionCheck_bytes b _)
  | timeline f d en => exact ⟨hs.1, hs.2.1, Mem.writeBeat_wf hs.2.2.1 _ d en, hs.2.2.2⟩
  | scanout f => exact hs.congr (by simp) (by simp) (scanoutState_bytes f s)
  | free => exact hs.congr (by simp) (by simp) (freeStrips_bytes s)

theorem Move.keeps_memories {s t : State} (h : Move s t) (hs : MemoriesCanonical s) : MemoriesCanonical t := by
  cases h with
  | record h | capture h | queue h | handset h | room h =>
    exact hs.same (by simp [h.frame]) (by simp [h.frame]) (by simp [h.frame])
  | bus h => rw [h.frame]; exact hs
  | table h => exact h.keeps_memories hs
  | lyrics h => exact h.keeps_memories hs
  | song h =>
    rcases h.lyrics_cases with hy | ⟨line, -, hy⟩
    · exact hs.same (by simp [h.frame]) (by simp [h.frame]) hy
    · exact hs.congr (by simp [h.frame]) (by simp [h.frame]) (hy ▸ clearChain_bytes line s)
  | reset h => rw [h]; exact memoriesCanonical_reset

/-- Settles O52, move by move. -/
theorem stepKeepsMemoriesCanonical : Obligations.StepKeepsMemoriesCanonical :=
  fun _ _ hs h => step_keeps (fun _ _ hm => hm.keeps_memories) (fun _ _ _ _ hp => hp) hs h

/-! ### The display chain (R57, R64 to R72) -/

/-- A chain lists the SHOWN buffers, each once. -/
def ListsShown (strips : Vector StripBuf 4) (chain : List (Fin 4)) : Prop :=
  chain.Nodup ∧ ∀ b : Fin 4, b ∈ chain ↔ (strips[b]).state = .shown

/-- The chain of `ChainSound`, as a property of the lyrics. -/
def Lyrics.ChainSound (y : Lyrics) : Prop :=
  ListsShown y.strips y.chain ∧ (y.scroll = none → y.chain.length ≤ 2) ∧
    (y.scroll ≠ none → 2 ≤ y.chain.length ∧ y.chain.length ≤ 3) ∧ y.nextLine ≤ 4096

theorem chainSound_iff (s : State) : ChainSound s ↔ s.lyrics.ChainSound := by
  simp only [Machine.ChainSound, Lyrics.ChainSound, ListsShown, and_assoc]

theorem ListsShown.replace {strips : Vector StripBuf 4} {chain : List (Fin 4)} (h : ListsShown strips chain) {b : Fin 4}
    (hb : (strips[b]).state ≠ .shown) {x : StripBuf} (hx : x.state ≠ .shown) : ListsShown (setAt strips b x) chain := by
  refine ⟨h.1, fun c => ?_⟩
  rw [setAt_get, h.2 c]
  split
  case isTrue hc => rw [hc]; exact iff_of_false hb hx
  case isFalse => exact Iff.rfl

theorem ListsShown.entered {strips : Vector StripBuf 4} {chain : List (Fin 4)} (h : ListsShown strips chain) {b : Fin 4}
    (hb : (strips[b]).state ≠ .shown) {x : StripBuf} (hx : x.state = .shown) :
    ListsShown (setAt strips b x) (chain ++ [b]) := by
  have hnew : b ∉ chain := fun hmem => hb ((h.2 b).1 hmem)
  refine ⟨List.nodup_append.2 ⟨h.1, List.nodup_singleton b, ?_⟩, fun c => ?_⟩
  · rintro c hc d hd rfl
    exact hnew (List.mem_singleton.1 hd ▸ hc)
  · rw [setAt_get, List.mem_append, List.mem_singleton, h.2 c]
    split
    case isTrue hc => simp [hc, hx]
    case isFalse hc => simp [hc]

theorem ListsShown.drop {strips : Vector StripBuf 4} {rest : List (Fin 4)} {k : Fin 4} (h : ListsShown strips (k :: rest))
    {x : StripBuf} (hx : x.state ≠ .shown) : ListsShown (setAt strips k x) rest := by
  obtain ⟨hnew, hrest⟩ := List.nodup_cons.1 h.1
  refine ⟨hrest, fun c => ?_⟩
  rw [setAt_get]
  split
  case isTrue hc => exact iff_of_false (hc ▸ hnew) hx
  case isFalse hc => rw [← h.2 c, List.mem_cons, or_iff_right hc]

theorem listsShown_nil {strips : Vector StripBuf 4} (h : ∀ b : Fin 4, (strips[b]).state ≠ .shown) : ListsShown strips [] :=
  ⟨List.nodup_nil, fun b => iff_of_false List.not_mem_nil (h b)⟩

theorem Lyrics.eligible_ready {y : Lyrics} {t : Nat} {b : Fin 4} (h : y.eligible t = some b) :
    (y.strips[b]).state ≠ .shown := by
  obtain ⟨⟨⟨hready, -⟩, -⟩, -⟩ := (y.eligible_some t b).1 h
  rw [hready]
  decide

theorem Lyrics.ChainSound.fillOnce {y : Lyrics} (h : y.ChainSound) (t : Nat) : (y.fillOnce t).ChainSound := by
  obtain ⟨hshown, hstill, hscrolls, hnext⟩ := h
  unfold Lyrics.fillOnce
  split
  case isFalse => exact ⟨hshown, hstill, hscrolls, hnext⟩
  case isTrue hfills =>
    obtain ⟨hroom, hscroll, -⟩ := hfills
    split
    case h_1 b hb =>
      refine ⟨hshown.entered (Lyrics.eligible_ready hb) rfl, fun _ => ?_, fun hne => absurd hscroll hne, Nat.min_le_right _ _⟩
      simp only [Lyrics.showLine, List.length_append, List.length_singleton]
      omega
    case h_2 => exact ⟨hshown, hstill, hscrolls, hnext⟩

theorem Lyrics.ChainSound.leadWarning {y : Lyrics} (h : y.ChainSound) (t lead : Nat) : (y.leadWarning t lead).ChainSound := by
  unfold Lyrics.leadWarning
  split <;> exact h

theorem Lyrics.ChainSound.scrollStart {y : Lyrics} (h : y.ChainSound) (t : Nat) : (y.scrollStart t).ChainSound := by
  obtain ⟨hshown, -, -, hnext⟩ := id h
  unfold Lyrics.scrollStart
  split
  case h_2 => exact h
  case h_1 k l hchain _ =>
    split_ifs
    · refine ⟨hshown, (absurd · (by simp)), fun _ => ?_, hnext⟩
      simp [hchain]
    · split
      case h_1 b hb =>
        refine ⟨hshown.entered (Lyrics.eligible_ready hb) rfl, (absurd · (by simp)), fun _ => ?_, Nat.min_le_right _ _⟩
        simp [Lyrics.showLine, hchain]
      case h_2 => exact h
    · exact h

theorem Lyrics.ChainSound.scrollCompletion {y : Lyrics} (h : y.ChainSound) (t duration : Nat) :
    (y.scrollCompletion t duration).ChainSound := by
  obtain ⟨hshown, -, hscrolls, hnext⟩ := id h
  unfold Lyrics.scrollCompletion
  split
  case h_1 => exact h
  case h_2 r hr =>
    obtain ⟨-, hmost⟩ := hscrolls (by rw [hr]; exact nofun)
    split
    case isFalse => exact h
    case isTrue =>
      split
      case h_1 hchain => exact ⟨hshown, fun _ => by simp [hchain], fun hne => absurd rfl hne, hnext⟩
      case h_2 k rest hchain =>
        rw [hchain] at hshown hmost
        exact ⟨hshown.drop (by simp), fun _ => Nat.le_of_succ_le_succ hmost, fun hne => absurd rfl hne, hnext⟩

theorem Lyrics.ChainSound.sequence {y : Lyrics} (h : y.ChainSound) (t lead duration : Nat) :
    (y.sequence t lead duration).ChainSound :=
  ((((h.fillOnce t).fillOnce t).leadWarning t lead).scrollStart t).scrollCompletion t duration

theorem enterLyric_lyrics (inBand : Bool) (s : State) :
    (enterLyric inBand s).lyrics = s.lyrics ∨
      ∃ t lead duration, (enterLyric inBand s).lyrics = s.lyrics.sequence t lead duration := by
  unfold enterLyric
  split
  case isTrue =>
    have hlatch : (takeLyricLatch s).lyrics =
        s.lyrics.sequence s.clock.latchTime (lineLead s.anchor.bytes) (scrollDuration s.anchor.bytes) := by
      simp [takeLyricLatch, sequenceChain]
    exact .inr ⟨_, _, _, hlatch⟩
  case isFalse => exact .inl rfl

theorem scanoutState_lyrics (f : Nat) (s : State) :
    (scanoutState f s).lyrics = (enterLyric (lyricBeat s.anchor.bytes f) s).lyrics := by
  simp only [scanoutState, enterGuide]
  split <;> simp

theorem runCompletionCheck_lyrics (b : Fin 4) (s : State) :
    (runCompletionCheck b s).lyrics = s.lyrics.setState b .ready ∨ (runCompletionCheck b s).lyrics = s.lyrics.setState b .free := by
  unfold runCompletionCheck
  split
  case isTrue => exact .inl rfl
  case isFalse => exact .inr (by simp)

theorem Lyrics.ChainSound.replace {y : Lyrics} (h : y.ChainSound) {b : Fin 4} (hb : (y.strips[b]).state ≠ .shown)
    {x : StripBuf} (hx : x.state ≠ .shown) : Lyrics.ChainSound { y with strips := setAt y.strips b x } :=
  ⟨h.1.replace hb hx, h.2⟩

theorem storedState_ne_shown (st : StripState) (p : Nat) : storedState st p ≠ .shown := by
  unfold storedState
  split <;> decide

theorem LyricsMove.keeps_chain {s t : State} (h : LyricsMove s t) (hs : s.lyrics.ChainSound) : t.lyrics.ChainSound := by
  cases h with
  | strip f d en =>
    rcases stripBeat_cases f d en s with h | ⟨b, p, sel, hb, h⟩
    · rw [h]; exact hs
    · have hstored : (stripStored b p d sel s).lyrics.ChainSound := hs.replace hb (storedState_ne_shown _ p)
      have hb' : ((stripStored b p d sel s).lyrics.strips[b]).state ≠ .shown := by
        simp only [stripStored, setAt_self]
        exact storedState_ne_shown _ p
      rcases h with h | h
      · rw [h]; exact hstored
      · rw [h]
        rcases runCompletionCheck_lyrics b (stripStored b p d sel s) with hy | hy
        · rw [hy]; exact hstored.replace hb' (by simp)
        · rw [hy]; exact hstored.replace hb' (by simp)
  | timeline f d en => exact hs
  | scanout f =>
    rw [scanoutState_lyrics]
    rcases enterLyric_lyrics (lyricBeat s.anchor.bytes f) s with hy | ⟨t, lead, duration, hy⟩
    · rw [hy]; exact hs
    · rw [hy]; exact hs.sequence t lead duration
  | free => exact ⟨listsShown_nil fun b => by simp [freeStrips], fun _ => by simp [freeStrips], fun hne => absurd rfl hne, by simp [freeStrips]⟩

theorem hide_ne_shown (b : StripBuf) : b.hide.state ≠ .shown := by
  unfold StripBuf.hide
  split
  case isTrue => simp
  case isFalse h => exact h

theorem clearChain_chain {line : Nat} (h : line ≤ 4095) (s : State) : (clearChain line s).lyrics.ChainSound :=
  ⟨listsShown_nil (forall_mapAll (p := fun x : StripBuf => x.state ≠ .shown) fun _ => hide_ne_shown _),
    fun _ => by simp [clearChain], fun hne => absurd rfl hne, by simp only [clearChain]; omega⟩

theorem Move.keeps_chain {s t : State} (h : Move s t) (hs : ChainSound s) : ChainSound t := by
  rw [chainSound_iff] at hs ⊢
  cases h with
  | record h | table h | capture h | queue h | handset h | room h => simpa [h.frame] using hs
  | bus h => rw [h.frame]; exact hs
  | lyrics h => exact h.keeps_chain hs
  | song h =>
    rcases h.lyrics_cases with hy | ⟨line, hline, hy⟩
    · rw [hy]; exact hs
    · rw [hy]; exact clearChain_chain hline s
  | reset h => rw [h]; exact (chainSound_iff _).1 chainSound_reset

/-- Settles O55, move by move. -/
theorem stepKeepsChainSound : Obligations.StepKeepsChainSound :=
  fun _ _ hs h => step_keeps (fun _ _ hm => hm.keeps_chain) (fun _ _ _ _ hp => hp) hs h

end Sys2Proof.Machine
end

section
/-! The invariant of the bus path, move by move (R1, R2). -/

namespace Sys2Proof.Machine

/-- The bus of `BusSound`, as a property of the bus path. -/
def BusPath.Sound (b : BusPath) : Prop :=
  b.list.length ≤ 8 ∧ (∀ l ∈ b.list, l.Sound) ∧ (∀ l ∈ b.list.dropLast, l.dataTaken = true) ∧
    (b.list.map Listed.serial).Nodup ∧ (∀ l ∈ b.list, l.serial < b.nextSerial) ∧
    ∀ d ∈ b.dPort, ∀ serial k, d.owner = some (serial, k) → serial < b.nextSerial

theorem busSound_iff (s : State) : BusSound s ↔ s.bus.Sound := Iff.rfl

/-! ### The list (R2) -/

/-- No write data is outstanding when the newest request has all of its data. -/
theorem BusPath.newest_dataTaken {b : BusPath} (h : b.awaitsData = false) {l : Listed} (hl : b.list.getLast? = some l) :
    l.dataTaken = true := by
  simpa [awaitsData, hl] using h

theorem mem_dropLast_or_getLast {α : Type} {x : α} {l : List α} (h : x ∈ l) : x ∈ l.dropLast ∨ l.getLast? = some x := by
  have hne := List.ne_nil_of_mem h
  rw [← List.dropLast_append_getLast hne, List.mem_append, List.mem_singleton] at h
  exact h.imp_right fun hx => by rw [List.getLast?_eq_getLast_of_ne_nil hne, hx]

theorem BusPath.Sound.list {b : BusPath} (h : b.Sound) (hroom : b.list.length < 8) (hdata : b.awaitsData = false)
    {r : BusRequest} {beats : List Beat} (hlength : beats.length = r.beats) :
    BusPath.Sound { b with list := b.list ++ [newListed b.nextSerial r beats], nextSerial := b.nextSerial + 1 } := by
  obtain ⟨-, hlisted, htaken, hserials, hgiven, howners⟩ := h
  refine ⟨?_, ?_, ?_, ?_, ?_, fun d hd serial k ho => (howners d hd serial k ho).trans (Nat.lt_succ_self _)⟩
  · simpa using hroom
  · rintro l hl
    rcases List.mem_append.1 hl with hl | hl
    · exact hlisted l hl
    · rw [List.mem_singleton.1 hl]; exact ⟨hlength, by simp [newListed]⟩
  · rintro l hl
    rw [List.dropLast_concat] at hl
    rcases mem_dropLast_or_getLast hl with hl | hl
    · exact htaken l hl
    · exact BusPath.newest_dataTaken hdata hl
  · rw [List.map_append, List.nodup_append]
    refine ⟨hserials, List.nodup_singleton _, ?_⟩
    intro x hx y hy
    obtain ⟨l, hl, rfl⟩ := List.mem_map.1 hx
    rw [List.mem_singleton.1 hy]
    exact (hgiven l hl).ne
  · rintro l hl
    rcases List.mem_append.1 hl with hl | hl
    · exact (hgiven l hl).trans (Nat.lt_succ_self _)
    · rw [List.mem_singleton.1 hl]; exact Nat.lt_succ_self _

/-- Requests of the list replaced, one for one, by ones of the same serial: what taking data and a run's progress do. -/
theorem BusPath.Sound.relist {b c : BusPath} (h : b.Sound) (f : Listed → Listed) (hlist : c.list = b.list.map f)
    (hserial : ∀ l, (f l).serial = l.serial) (hsound : ∀ l, l.Sound → (f l).Sound)
    (htaken : ∀ l, (f l).dataTaken = l.dataTaken) (hnext : c.nextSerial = b.nextSerial)
    (howner : ∀ d ∈ c.dPort, ∀ serial k, d.owner = some (serial, k) → serial < b.nextSerial) : c.Sound := by
  obtain ⟨hroom, hlisted, hold, hserials, hgiven, -⟩ := h
  refine ⟨?_, ?_, ?_, ?_, ?_, by rwa [hnext]⟩
  · rwa [hlist, List.length_map]
  · rw [hlist]
    intro l hl
    obtain ⟨x, hx, rfl⟩ := List.mem_map.1 hl
    exact hsound x (hlisted x hx)
  · rw [hlist, ← List.map_dropLast]
    intro l hl
    obtain ⟨x, hx, rfl⟩ := List.mem_map.1 hl
    rw [htaken, hold x hx]
  · rwa [hlist, List.map_map, show Listed.serial ∘ f = Listed.serial from funext hserial]
  · rw [hlist, hnext]
    intro l hl
    obtain ⟨x, hx, rfl⟩ := List.mem_map.1 hl
    rw [hserial]
    exact hgiven x hx

/-! ### Write data (R1) -/

theorem BusPath.Sound.takeData {b : BusPath} (h : b.Sound) {l : Listed} (hl : b.list.getLast? = some l)
    (hshort : l.taken.length < l.beats.length) (d : Data) (en : Enables) : (b.takeData l d en).Sound := by
  have hlist : b.list = b.list.dropLast ++ [l] := (List.dropLast_append_getLast? l hl).symm
  obtain ⟨hroom, hlisted, hold, hserials, hgiven, howners⟩ := h
  have hmem : l ∈ b.list := List.mem_of_getLast? hl
  have hlast : ∀ {x : Listed}, x ∈ (b.takeData l d en).list →
      x ∈ b.list.dropLast ∨ x = { l with taken := l.taken ++ [(d, en)] } := fun hx =>
    (List.mem_append.1 hx).imp_right List.mem_singleton.1
  have hserial : (b.takeData l d en).list.map Listed.serial = b.list.map Listed.serial := by
    rw [hlist]
    simp [BusPath.takeData]
  refine ⟨?_, ?_, ?_, by rwa [hserial], ?_, howners⟩
  · rw [hlist] at hroom
    simpa [BusPath.takeData] using hroom
  · intro x hx
    rcases hlast hx with hx | rfl
    · exact hlisted x (List.mem_of_mem_dropLast hx)
    · exact ⟨(hlisted l hmem).1, by simpa using hshort⟩
  · intro x hx
    simp only [BusPath.takeData, List.dropLast_concat] at hx
    exact hold x hx
  · intro x hx
    rcases hlast hx with hx | rfl
    · exact hgiven x (List.mem_of_mem_dropLast hx)
    · exact hgiven l hmem

/-! ### Runs (R2, R3) -/

theorem Listed.setRun_keeps (l : Listed) (k : Nat) (st : RunStatus) :
    (l.setRun k st).serial = l.serial ∧ (l.setRun k st).request = l.request ∧ (l.setRun k st).beats = l.beats ∧
      (l.setRun k st).taken = l.taken := by
  unfold setRun
  split <;> simp

theorem Listed.setRun_sound {l : Listed} (h : l.Sound) (k : Nat) (st : RunStatus) : (l.setRun k st).Sound := by
  obtain ⟨-, hrequest, hbeats, htaken⟩ := l.setRun_keeps k st
  simpa only [Sound, hrequest, hbeats, htaken] using h

theorem Listed.setRun_dataTaken (l : Listed) (k : Nat) (st : RunStatus) : (l.setRun k st).dataTaken = l.dataTaken := by
  obtain ⟨-, hrequest, hbeats, htaken⟩ := l.setRun_keeps k st
  simp only [dataTaken, hrequest, hbeats, htaken]

/-- A run's progress in the requests that a test selects. -/
theorem BusPath.Sound.setRuns {b c : BusPath} (h : b.Sound) (sel : Listed → Bool) (k : Nat) (st : RunStatus)
    (hlist : c.list = b.list.map fun l => if sel l then l.setRun k st else l) (hnext : c.nextSerial = b.nextSerial)
    (howner : ∀ d ∈ c.dPort, ∀ serial k, d.owner = some (serial, k) → serial < b.nextSerial) : c.Sound := by
  refine h.relist _ hlist (fun l => ?_) (fun l hl => ?_) (fun l => ?_) hnext howner
  · split
    · exact (l.setRun_keeps k st).1
    · rfl
  · split
    · exact Listed.setRun_sound hl k st
    · exact hl
  · split
    · exact l.setRun_dataTaken k st
    · rfl

/-- With distinct serials, replacing the request at a place is replacing the one of its serial. -/
theorem set_eq_map_serial {list : List Listed} (hd : (list.map Listed.serial).Nodup) {i : Nat} {l : Listed}
    (hl : list[i]? = some l) (f : Listed → Listed) :
    list.set i (f l) = list.map fun x => if x.serial = l.serial then f x else x := by
  obtain ⟨hi, hli⟩ := List.getElem?_eq_some_iff.1 hl
  refine List.ext_getElem (by simp) fun j hj hj' => ?_
  rw [List.getElem_set, List.getElem_map]
  have hjl : j < list.length := by simpa using hj
  split
  case isTrue hij => subst hij; rw [hli, if_pos rfl]
  case isFalse hij =>
    rw [if_neg]
    intro hserial
    refine hij ((List.Nodup.getElem_inj_iff hd (hi := by simpa using hi) (hj := by simpa using hjl)).1 ?_)
    rw [List.getElem_map, List.getElem_map, hli, hserial]

theorem forwardRun_cases (s : State) :
    forwardRun s = s ∨ ∃ i k r l, s.bus.list[i]? = some l ∧
      forwardRun s = setBus { s.bus with
        list := s.bus.list.set i (l.setRun k .forwarded), dPort := s.bus.dPort ++ [l.toDPort k r] } s := by
  unfold forwardRun
  split
  case h_1 => exact .inl rfl
  case h_2 i k r _ =>
    split
    case h_1 => exact .inl rfl
    case h_2 l hl =>
      split
      case isTrue => exact .inr ⟨i, k, r, l, hl, rfl⟩
      case isFalse => exact .inl rfl

theorem BusPath.Sound.forward {s : State} (h : s.bus.Sound) : (forwardRun s).bus.Sound := by
  rcases forwardRun_cases s with hf | ⟨i, k, r, l, hl, hf⟩
  · rwa [hf]
  · rw [hf]
    obtain ⟨-, -, -, hserials, hgiven, howners⟩ := id h
    refine h.setRuns (fun x => decide (x.serial = l.serial)) k .forwarded ?_ rfl ?_
    · simpa [setBus] using set_eq_map_serial hserials hl fun x => x.setRun k .forwarded
    · intro d hd serial k' ho
      rcases List.mem_append.1 hd with hd | hd
      · exact howners d hd serial k' ho
      · rw [List.mem_singleton.1 hd] at ho
        cases ho
        exact hgiven l (List.mem_of_getElem? hl)

theorem BusPath.Sound.complete {s : State} (h : s.bus.Sound) (n : Nat) (fault : Bool) (data : List Data) :
    (completeRun n fault data s).bus.Sound := by
  have howners : ∀ d ∈ s.bus.dPort.eraseIdx n, ∀ serial k, d.owner = some (serial, k) → serial < s.bus.nextSerial :=
    fun d hd => h.2.2.2.2.2 d (List.mem_of_mem_eraseIdx hd)
  unfold completeRun
  split
  case h_1 => exact h
  case h_2 d _ =>
    split
    case isFalse => exact h
    case isTrue =>
      simp only [BusPath.recordRun]
      split
      case h_1 => exact h.relist id (List.map_id _).symm (fun _ => rfl) (fun _ hl => hl) (fun _ => rfl) rfl howners
      case h_2 serial k _ =>
        exact h.setRuns (fun x => decide (x.serial = serial)) k (.completed fault data) (by simp [setBus]) rfl howners

/-! ### What leaves the list (R2, R19, R20) -/

theorem BusPath.Sound.leave {b : BusPath} (h : b.Sound) {l : Listed} {rest : List Listed} (hlist : b.list = l :: rest)
    (out : Option Completion) : BusPath.Sound { b with list := rest, uPort := out } := by
  obtain ⟨hroom, hlisted, hold, hserials, hgiven, howners⟩ := h
  rw [hlist] at hroom hlisted hold hserials hgiven
  refine ⟨Nat.le_of_succ_le hroom, fun x hx => hlisted x (.tail l hx), fun x hx => hold x ?_, (List.nodup_cons.1 hserials).2,
    fun x hx => hgiven x (.tail l hx), howners⟩
  rw [List.dropLast_cons_of_ne_nil (List.ne_nil_of_mem (List.mem_of_mem_dropLast hx))]
  exact .tail l hx

theorem BusPath.abandon_sound (b : BusPath) : b.abandon.Sound := by
  refine ⟨Nat.zero_le _, nofun, nofun, List.nodup_nil, nofun, fun d hd serial k ho => ?_⟩
  obtain ⟨x, -, rfl⟩ := List.mem_map.1 hd
  cases ho

theorem BusMove.keeps_bus {s t : State} (h : BusMove s t) (hs : s.bus.Sound) : t.bus.Sound := by
  cases h with
  | list r beats room length =>
    simp only [State.canAccept, Bool.and_eq_true, decide_eq_true_eq, Bool.not_eq_true'] at room
    exact hs.list room.1.2 room.2 length
  | hold r => exact hs
  | take l d en newest awaits short => exact hs.takeData newest short d en
  | forward => exact hs.forward
  | complete n fault data => exact hs.complete n fault data
  | leave l rest out oldest => exact hs.leave oldest out
  | abandon => exact s.bus.abandon_sound

theorem Move.keeps_bus {s t : State} (h : Move s t) (hs : BusSound s) : BusSound t := by
  rw [busSound_iff] at hs ⊢
  cases h with
  | record h | table h | lyrics h | capture h | song h | queue h | handset h | room h => simpa [h.frame] using hs
  | bus h => exact h.keeps_bus hs
  | reset h => rw [h]; exact s.bus.abandon_sound

/-- Settles O56, move by move. -/
theorem stepKeepsBusSound : Obligations.StepKeepsBusSound :=
  fun _ _ hs h => step_keeps (fun _ _ hm => hm.keeps_bus) (fun _ _ _ _ hp => hp) hs h

end Sys2Proof.Machine
end

section
/-! The Request Queue: the tags of R151, what a standby evaluation keeps, and the invariant of the queue, move by move. -/

namespace Sys2Proof.Machine

/-! ### Tags (R151) -/

/-- The tags in use. -/
def Queue.tags (q : Queue) : List Nat := q.entries.map Entry.tag ++ q.playingTag

theorem Queue.tagUsed_iff (q : Queue) (t : Nat) : q.tagUsed t = true ↔ t ∈ q.tags := by
  unfold tagUsed tags playingTag
  rw [Bool.or_eq_true, List.mem_append, List.any_eq_true, List.mem_map]
  cases q.nowPlaying with
  | none => simp
  | some n => simp [eq_comm]

theorem Queue.playingTag_length (q : Queue) : q.playingTag.length ≤ 1 := by
  unfold playingTag
  split <;> simp

/-- The k-th tag from one on, wrapping from 255 to 1. -/
def tagFrom (t k : Nat) : Nat := (t - 1 + k) % 255 + 1

theorem tagFrom_zero {t : Nat} (h1 : 1 ≤ t) (h255 : t ≤ 255) : tagFrom t 0 = t := by
  unfold tagFrom
  omega

theorem tagFrom_range (t k : Nat) : 1 ≤ tagFrom t k ∧ tagFrom t k ≤ 255 := by
  unfold tagFrom
  omega

theorem tagAfter_range {t : Nat} (h1 : 1 ≤ t) (h255 : t ≤ 255) : 1 ≤ tagAfter t ∧ tagAfter t ≤ 255 := by
  unfold tagAfter
  split <;> omega

theorem tagFrom_tagAfter {t : Nat} (h1 : 1 ≤ t) (h255 : t ≤ 255) (k : Nat) : tagFrom (tagAfter t) k = tagFrom t (k + 1) := by
  unfold tagFrom tagAfter
  split <;> omega

/-- The search passes used tags, and stops at the first unused one unless its steps run out. -/
theorem Queue.freeTagFrom_spec (q : Queue) (n : Nat) : ∀ t, 1 ≤ t → t ≤ 255 →
    ∃ k, k ≤ n ∧ q.freeTagFrom n t = tagFrom t k ∧ (∀ j, j < k → q.tagUsed (tagFrom t j) = true) ∧
      (k < n → q.tagUsed (tagFrom t k) = false) := by
  induction n with
  | zero => exact fun t h1 h255 => ⟨0, le_rfl, (tagFrom_zero h1 h255).symm, by omega, by omega⟩
  | succ n ih =>
    intro t h1 h255
    unfold freeTagFrom
    split
    case isFalse hfree =>
      exact ⟨0, by omega, (tagFrom_zero h1 h255).symm, by omega,
        fun _ => by rw [tagFrom_zero h1 h255]; simpa using hfree⟩
    case isTrue hused =>
      obtain ⟨hafter1, hafter255⟩ := tagAfter_range h1 h255
      obtain ⟨k, hk, hstop, hpassed, hunused⟩ := ih (tagAfter t) hafter1 hafter255
      simp only [tagFrom_tagAfter h1 h255] at hstop hpassed hunused
      refine ⟨k + 1, by omega, hstop, fun j hj => ?_, fun hlt => hunused (by omega)⟩
      cases j with
      | zero => rwa [tagFrom_zero h1 h255]
      | succ j => exact hpassed j (by omega)

/-- Fewer than 255 tags are in use, so the 255 tags from one on are not all used. -/
theorem Queue.exists_unused (q : Queue) (t : Nat) (h : q.tags.length < 255) :
    ¬ ∀ j, j < 255 → q.tagUsed (tagFrom t j) = true := by
  intro hall
  have hnodup : ((List.range 255).map (tagFrom t)).Nodup := by
    refine List.Nodup.map_on (fun x hx y hy hxy => ?_) List.nodup_range
    rw [List.mem_range] at hx hy
    unfold tagFrom at hxy
    omega
  have hsub : (List.range 255).map (tagFrom t) ⊆ q.tags := by
    intro x hx
    obtain ⟨j, hj, rfl⟩ := List.mem_map.1 hx
    exact (q.tagUsed_iff _).1 (hall j (List.mem_range.1 hj))
  have hlength := (List.subperm_of_subset hnodup hsub).length_le
  rw [List.length_map, List.length_range] at hlength
  omega

theorem Queue.freeTag_spec {q : Queue} (h1 : 1 ≤ q.nextTag) (h255 : q.nextTag ≤ 255) (hroom : q.entries.length < 48) :
    ∃ n, n < 255 ∧ q.freeTag = tagFrom q.nextTag n ∧ q.tagUsed q.freeTag = false ∧
      ∀ k, k < n → q.tagUsed (tagFrom q.nextTag k) = true := by
  obtain ⟨k, hk, hstop, hpassed, hunused⟩ := q.freeTagFrom_spec 255 q.nextTag h1 h255
  have hfew : q.tags.length < 255 := by
    have := q.playingTag_length
    rw [tags, List.length_append, List.length_map]
    omega
  have hlt : k < 255 := by
    by_contra hge
    exact q.exists_unused q.nextTag hfew fun j hj => hpassed j (by omega)
  exact ⟨k, hlt, hstop, by rw [show q.freeTag = _ from hstop]; exact hunused hlt, hpassed⟩

/-- Settles O41: the search of a queue within its bounds ends at an unused tag. -/
theorem newTagIsFirstFree : Obligations.NewTagIsFirstFree := by
  intro s hs hroom
  obtain ⟨-, -, -, -, h1, h255⟩ := hs
  exact Queue.freeTag_spec h1 h255 hroom

/-! ### What keeps a sound queue sound -/

/-- The queue of `QueueSound`, as a property of the queue. -/
def Queue.Sound (q : Queue) : Prop :=
  q.entries.length ≤ 48 ∧ (q.entries.map Entry.song).Nodup ∧ q.tags.Nodup ∧
    (∀ e ∈ q.entries, 1 ≤ e.tag ∧ e.tag ≤ 255) ∧ 1 ≤ q.nextTag ∧ q.nextTag ≤ 255

theorem queueSound_iff (s : State) : QueueSound s ↔ s.queue.Sound := Iff.rfl

/-- The fields of an entry that tell it from the others. -/
def Entry.ident (e : Entry) : Nat × Nat := (e.song, e.tag)

theorem map_ident_song (es : List Entry) : es.map Entry.song = (es.map Entry.ident).map Prod.fst := by
  rw [List.map_map]
  rfl

theorem map_ident_tag (es : List Entry) : es.map Entry.tag = (es.map Entry.ident).map Prod.snd := by
  rw [List.map_map]
  rfl

theorem subperm_map {α β : Type} (f : α → β) {l₁ l₂ : List α} (h : l₁.Subperm l₂) : (l₁.map f).Subperm (l₂.map f) := by
  obtain ⟨l, hperm, hsub⟩ := h
  exact ⟨l.map f, hperm.map f, hsub.map f⟩

theorem nodup_of_subperm {α : Type} {l₁ l₂ : List α} (h : l₁.Subperm l₂) (hn : l₂.Nodup) : l₁.Nodup := by
  obtain ⟨l, hperm, hsub⟩ := h
  exact hperm.nodup_iff.1 (hn.sublist hsub)

/-- A queue whose entries are some of another's, in any order and with any other fields, is as sound. -/
theorem Queue.Sound.subperm {q r : Queue} (h : q.Sound) (hkeys : (r.entries.map Entry.ident).Subperm (q.entries.map Entry.ident))
    (hplaying : r.playingTag.Subperm q.playingTag) (hnext : r.nextTag = q.nextTag) : r.Sound := by
  obtain ⟨hroom, hsongs, htags, hrange, hnext'⟩ := h
  have htagsub : (r.entries.map Entry.tag).Subperm (q.entries.map Entry.tag) := by
    rw [map_ident_tag, map_ident_tag q.entries]
    exact subperm_map Prod.snd hkeys
  refine ⟨?_, ?_, ?_, ?_, by rwa [hnext]⟩
  · have := hkeys.length_le
    simp only [List.length_map] at this
    omega
  · rw [map_ident_song] at hsongs ⊢
    exact nodup_of_subperm (subperm_map Prod.fst hkeys) hsongs
  · exact nodup_of_subperm (htagsub.append hplaying) htags
  · intro e he
    obtain ⟨x, hx, hxe⟩ := List.mem_map.1 (htagsub.subset (List.mem_map_of_mem he))
    rw [← hxe]
    exact hrange x hx

theorem Queue.Sound.keys_eq {q r : Queue} (h : q.Sound) (hkeys : r.entries.map Entry.ident = q.entries.map Entry.ident)
    (hplaying : r.nowPlaying = q.nowPlaying) (hnext : r.nextTag = q.nextTag) : r.Sound :=
  h.subperm (by rw [hkeys]) (by rw [Queue.playingTag, Queue.playingTag, hplaying]) hnext

theorem QueueSound.congr {s t : State} (hs : QueueSound s) (h : t.queue = s.queue) : QueueSound t := by
  simpa only [QueueSound, h] using hs

/-! ### Evaluations and changes (R153, R161) -/

/-- An evaluation changes no field but the state. -/
theorem standbyWalk_map {α : Type} (f : Entry → α) (hf : ∀ e st, f { e with state := st } = f e) (budget : Nat) (es : List Entry) :
    ∀ sum, (standbyWalk budget sum es).map f = es.map f := by
  induction es with
  | nil => exact fun _ => rfl
  | cons e es ih =>
    intro sum
    unfold standbyWalk
    split_ifs <;> simp only [List.map_cons, hf, ih]

theorem standbyWalk_keys (budget sum : Nat) (es : List Entry) :
    (standbyWalk budget sum es).map Entry.ident = es.map Entry.ident :=
  standbyWalk_map Entry.ident (fun _ _ => rfl) budget es sum

theorem Queue.Sound.evaluated {q : Queue} (h : q.Sound) (t : State) : (evaluatedQueue t q).Sound :=
  h.keys_eq (standbyWalk_keys _ _ _) rfl rfl

theorem QueueSound.standbyEvaluate {s : State} (hs : QueueSound s) : QueueSound (standbyEvaluate s) := by
  rw [queueSound_iff, standbyEvaluate_queue]
  exact Queue.Sound.evaluated hs s

@[simp] theorem queueChanged_queue (s : State) : (queueChanged s).queue = { s.queue with gen := s.queue.gen + 1 } := by
  simp [queueChanged]

theorem QueueSound.queueChanged {s : State} (hs : QueueSound s) : QueueSound (queueChanged s) := by
  rw [queueSound_iff, queueChanged_queue]
  exact hs

/-- The entries replaced by some of the same, in any order and with any other fields. -/
theorem QueueSound.entries {s : State} (hs : QueueSound s) {es : List Entry}
    (h : (es.map Entry.ident).Subperm (s.queue.entries.map Entry.ident)) :
    QueueSound { s with queue := { s.queue with entries := es } } :=
  Queue.Sound.subperm (q := s.queue) hs h (List.Subperm.refl _) rfl

theorem QueueSound.putEntry {s : State} (hs : QueueSound s) {i : Nat} {e : Entry} (x : Entry) (he : s.queue.entries[i]? = some e)
    (hx : x.ident = e.ident) : QueueSound (putEntry i x s) := by
  refine hs.entries ?_
  obtain ⟨hi, rfl⟩ := List.getElem?_eq_some_iff.1 he
  rw [List.map_set, hx, ← List.getElem_map Entry.ident (h := by simpa using hi), List.set_getElem_self]

/-! ### The moves of the queue (R154 to R159) -/

theorem QueueSound.add {s : State} (hs : QueueSound s) (position : Nat) (e : Entry) (hfresh : s.queue.indexOfSong e.song = none)
    (hroom : s.queue.entries.length < 48) : QueueSound (addEntry position e s) := by
  obtain ⟨-, hsongs, htags, hrange, h1, h255⟩ := id hs
  obtain ⟨n, -, hfree, hunused, -⟩ := Queue.freeTag_spec h1 h255 hroom
  obtain ⟨hfree1, hfree255⟩ := hfree ▸ tagFrom_range s.queue.nextTag n
  have hnew : s.queue.freeTag ∉ s.queue.tags := fun hmem => by
    rw [(s.queue.tagUsed_iff _).2 hmem] at hunused
    cases hunused
  have hsong : e.song ∉ s.queue.entries.map Entry.song := by
    rw [List.mem_map]
    rintro ⟨x, hx, hxs⟩
    have := List.findIdx?_eq_none_iff.1 hfresh x hx
    simp [hxs] at this
  have hperm := placeAt_perm s.queue.entries position { e with tag := s.queue.freeTag }
  refine (QueueSound.queueChanged ?_).standbyEvaluate
  refine ⟨?_, ?_, ?_, ?_, tagAfter_range hfree1 hfree255⟩
  · simpa [hperm.length_eq] using hroom
  · rw [(hperm.map Entry.song).nodup_iff]
    exact List.nodup_cons.2 ⟨hsong, hsongs⟩
  · show ((placeAt s.queue.entries position { e with tag := s.queue.freeTag }).map Entry.tag ++ s.queue.playingTag).Nodup
    rw [((hperm.map Entry.tag).append_right s.queue.playingTag).nodup_iff]
    exact List.nodup_cons.2 ⟨hnew, htags⟩
  · intro x hx
    rcases List.mem_cons.1 (hperm.mem_iff.1 hx) with rfl | hx
    · exact ⟨hfree1, hfree255⟩
    · exact hrange x hx

theorem eraseIdx_perm {α : Type} {l : List α} {i : Nat} {x : α} (h : l[i]? = some x) : (x :: l.eraseIdx i).Perm l := by
  obtain ⟨hi, rfl⟩ := List.getElem?_eq_some_iff.1 h
  exact List.getElem_cons_eraseIdx_perm hi

theorem QueueMove.keeps_queue {s t : State} (h : QueueMove s t) (hs : QueueSound s) : QueueSound t := by
  cases h with
  | add position e fresh room => exact hs.add position e fresh room
  | remove i => exact (hs.entries ((List.eraseIdx_sublist _ i).map _).subperm).queueChanged.standbyEvaluate
  | merge i e entry =>
    unfold mergeEntry
    split
    case isTrue => exact (hs.putEntry { e with repeats := e.repeats + 1 } entry rfl).queueChanged
    case isFalse => exact hs
  | move i n e entry =>
    have hperm : (placeAt (s.queue.entries.eraseIdx i) n e).Perm s.queue.entries :=
      (placeAt_perm _ n e).trans (eraseIdx_perm entry)
    have hmoved := hs.entries (hperm.map Entry.ident).subperm
    simp only [moveEntry]
    split
    case isTrue => exact hmoved.standbyEvaluate
    case isFalse => exact hmoved.queueChanged.standbyEvaluate
  | confirm i e entry => exact (hs.putEntry { e with state := .queued } entry rfl).queueChanged.standbyEvaluate
  | pin i e p entry => exact (hs.putEntry { e with pin := p } entry rfl).queueChanged
  | waiting c => exact hs.congr (by simp)

/-! ### What a song and a booking do with the queue (R163 to R166, R169, R171) -/

theorem QueueSound.clear {s : State} (hs : QueueSound s) : QueueSound (clearQueue s) := by
  unfold clearQueue
  split
  case isTrue => exact hs
  case isFalse => exact (hs.entries (es := []) List.nil_subperm).queueChanged

theorem QueueSound.endSong {s : State} (hs : QueueSound s) (o : EndOutcome) : QueueSound (endSong o s) := by
  obtain ⟨-, -, -, hqueue, -⟩ := endSong_ended o s
  rw [queueSound_iff, hqueue]
  exact Queue.Sound.evaluated hs _

theorem QueueSound.playback {s : State} (hs : QueueSound s) (w : Win) (a : Addr) : QueueSound (playbackBeat w a s) := by
  have hcount : ∀ u : State, QueueSound u → QueueSound (countBeat w a u) := by
    intro u hu
    simp only [countBeat]
    split
    case isTrue => exact QueueSound.endSong (s := { u with clock := u.clock.count u.timebase w a }) hu .complete
    case isFalse => exact hu
  unfold playbackBeat
  split
  case h_1 | h_2 | h_3 => exact hs
  case h_4 => exact hcount _ hs
  case h_5 | h_6 =>
    split
    case isTrue => exact hcount s hs
    case isFalse => exact hs.congr (by simp)

/-- A take leaves the other entries, and the taken tag or 0 with the now-playing record. -/
theorem Queue.Sound.take {q : Queue} (h : q.Sound) {r : LoadRequest} {n : NowPlaying} {es : List Entry}
    (htake : q.takeFor r = some (n, es)) (gen : Count32) :
    Queue.Sound { entries := es, nextTag := q.nextTag, nowPlaying := some n, gen := gen } := by
  obtain ⟨hroom, hsongs, htags, hrange, hnext⟩ := h
  unfold Queue.takeFor at htake
  split at htake
  case h_1 =>
    cases htake
    refine ⟨hroom, hsongs, ?_, hrange, hnext⟩
    show (q.entries.map Entry.tag ++ [0]).Nodup
    rw [List.nodup_append]
    refine ⟨(List.nodup_append.1 htags).1, List.nodup_singleton 0, fun x hx y hy => ?_⟩
    obtain ⟨e, he, rfl⟩ := List.mem_map.1 hx
    have := hrange e he
    rw [List.mem_singleton.1 hy]
    omega
  case h_2 =>
    split at htake
    case h_1 => cases htake
    case h_2 i _ =>
      split at htake
      case h_1 => cases htake
      case h_2 e he =>
        cases htake
        have hsub := List.eraseIdx_sublist q.entries i
        have hperm : (e.tag :: (q.entries.eraseIdx i).map Entry.tag).Perm (q.entries.map Entry.tag) :=
          (eraseIdx_perm he).map Entry.tag
        refine ⟨hsub.length_le.trans hroom, hsongs.sublist (hsub.map _), ?_, fun x hx => hrange x (hsub.mem hx), hnext⟩
        show ((q.entries.eraseIdx i).map Entry.tag ++ [e.tag]).Nodup
        exact ((List.perm_append_singleton _ _).trans hperm).nodup_iff.2 (List.nodup_append.1 htags).1

theorem promoteFirst_perm (h : Fin 16) (steps : Nat) (es : List Entry) : (promoteFirst h steps es).Perm es := by
  unfold promoteFirst
  split
  case h_1 => exact .refl es
  case h_2 i _ =>
    split
    case h_1 => exact .refl es
    case h_2 e he =>
      obtain ⟨hi, rfl⟩ := List.getElem?_eq_some_iff.1 he
      simp only
      generalize i - encorePasses (es.take i) steps = k
      have hfront : ((es.take i).take k ++ es[i] :: (es.take i).drop k).Perm (es.take i ++ [es[i]]) :=
        List.perm_middle.trans (by rw [List.take_append_drop]; exact (List.perm_append_singleton _ _).symm)
      refine (hfront.append_right (es.drop (i + 1))).trans (.of_eq ?_)
      rw [List.append_assoc, List.singleton_append, List.getElem_cons_drop, List.take_append_drop]

theorem QueueSound.encore {s : State} (hs : QueueSound s) (o : EndOutcome) (lead : Option Nat) (r : Requester)
    (threshold steps : Nat) : QueueSound (encore o lead r threshold steps s) := by
  unfold Machine.encore
  split
  case h_2 => exact hs
  case h_1 h final =>
    split
    case isFalse => exact hs
    case isTrue =>
      simp only
      split
      case isTrue => exact hs
      case isFalse => exact (hs.entries ((promoteFirst_perm h steps _).map Entry.ident).subperm).queueChanged

theorem QueueSound.retire {s : State} (hs : QueueSound s) : QueueSound (retire s) :=
  have hnone : QueueSound { s with queue := { s.queue with nowPlaying := none } } :=
    Queue.Sound.subperm (q := s.queue) hs (List.Subperm.refl _) List.nil_subperm rfl
  hnone.queueChanged.standbyEvaluate

theorem SongMove.keeps_queue {s t : State} (h : SongMove s t) (hs : QueueSound s) : QueueSound t := by
  cases h with
  | playback w a => exact hs.playback w a
  | stall => exact hs.congr (by simp)
  | load a r n es arguments loadable take =>
    rw [queueSound_iff, applyLoad_eq]
    exact ((Queue.Sound.take hs take 0).evaluated (applyLoad r n es s)).keys_eq rfl rfl rfl
  | start => exact hs
  | seek position line =>
    have hcleared : QueueSound (standbyEvaluate (clearChain line
        (closeAllNotes { s with clock := s.clock.seek position s.timebase }))) :=
      (hs.congr (by simp)).standbyEvaluate
    simp only [applySeek]
    split
    case isTrue => exact hcleared.endSong .complete
    case isFalse => exact hcleared
  | ends o => exact hs.endSong o
  | post p =>
    simp only [completePosting]
    exact (QueueSound.encore (hs.congr (by simp)) _ _ _ _ _).retire
  | clearBoard => exact hs.congr (by simp)

theorem RoomMove.keeps_queue {s t : State} (h : RoomMove s t) (hs : QueueSound s) : QueueSound t := by
  cases h with
  | opens r =>
    have hcleared : QueueSound (clearQueue (setRoom .opened r (some s.timebase) s)) := (hs.congr (by simp)).clear
    exact (hcleared.congr (by simp [raiseIfLow])).standbyEvaluate
  | extend r => exact (hs.congr (by simp)).standbyEvaluate
  | reopen r => exact (hs.congr (by simp [raiseIfLow])).standbyEvaluate
  | close =>
    have hcleared : QueueSound (clearQueue (setRoom .closed 0 none s)) := (hs.congr (by simp)).clear
    exact hcleared.congr (by simp)
  | second =>
    have hstate : ∀ r : Nat, QueueSound (if r = 0 then raise .roomTimeLow (setRoom .overtime 0 none s)
        else raiseIf (decide (r = 300)) .roomTimeLow (setRoom .opened r (some s.timebase) s)) := by
      intro r
      split <;> exact hs.congr (by simp)
    simp only [expireSecond, applySecond]
    split
    case isFalse => exact hs
    case isTrue =>
      split
      case isTrue => exact (hstate _).standbyEvaluate
      case isFalse => exact hstate _

theorem Move.keeps_queue {s t : State} (h : Move s t) (hs : QueueSound s) : QueueSound t := by
  cases h with
  | record h | table h | lyrics h | capture h | handset h => exact hs.congr (by simp [h.frame])
  | bus h => rw [h.frame]; exact hs
  | song h => exact h.keeps_queue hs
  | queue h => exact h.keeps_queue hs
  | room h => exact h.keeps_queue hs
  | reset h => rw [h]; exact queueSound_reset

/-- Settles O54, move by move. -/
theorem stepKeepsQueueSound : Obligations.StepKeepsQueueSound :=
  fun _ _ hs h => step_keeps (fun _ _ hm => hm.keeps_queue) (fun _ _ _ _ hp => hp) hs h

end Sys2Proof.Machine
end

section
/-! The invariant of the Handset Table, move by move (R137 to R141). -/

namespace Sys2Proof.Machine

/-! ### A sound record, state by state -/

/-- What soundness asks of a record in each state. -/
def Handset.Fits (r : Handset) : HandsetState → Prop
  | .absent => r.errors < 256 ∧ r.presence.isSome = false ∧ r.quiet.isSome = false ∧ r.quietCount = 0
  | .active => r.errors < 128 ∧ r.presence.isSome = true ∧ r.quiet.isSome = false ∧ r.quietCount = 0
  | .held => 128 ≤ r.errors ∧ r.errors < 256 ∧ r.presence.isSome = true ∧ r.quiet.isSome = false ∧ r.quietCount = 0
  | .barred => r.errors = 256 ∧ r.presence.isSome = false ∧ r.quiet.isSome = true ∧ r.quietCount < 128

theorem Handset.sound_iff (r : Handset) : r.Sound ↔ r.Fits r.state := by
  unfold Sound
  cases r.state <;> simp only [Fits] <;> grind

theorem Handset.sound_of_fits {r : Handset} {st : HandsetState} (hst : r.state = st) (h : r.Fits st) : r.Sound := by
  rw [r.sound_iff, hst]
  exact h

theorem Handset.Sound.fits {r : Handset} (h : r.Sound) {st : HandsetState} (hst : r.state = st) : r.Fits st := by
  rw [r.sound_iff, hst] at h
  exact h

theorem Handset.Sound.heard {r : Handset} (h : r.Sound) (now : Count32) : (r.heard now).Sound := by
  unfold Handset.heard
  split
  case h_1 hst =>
    obtain ⟨herrors, -, hquiet, hcount⟩ := h.fits hst
    by_cases hheld : 128 ≤ r.errors
    · exact sound_of_fits (if_pos hheld) ⟨hheld, herrors, rfl, hquiet, hcount⟩
    · exact sound_of_fits (if_neg hheld) ⟨not_le.1 hheld, rfl, hquiet, hcount⟩
  case h_2 hst =>
    obtain ⟨herrors, -, hquiet, hcount⟩ := h.fits hst
    exact sound_of_fits hst ⟨herrors, rfl, hquiet, hcount⟩
  case h_3 hst =>
    obtain ⟨hleast, hmost, -, hquiet, hcount⟩ := h.fits hst
    exact sound_of_fits hst ⟨hleast, hmost, rfl, hquiet, hcount⟩
  case h_4 => exact h

theorem Handset.Sound.lapse {r : Handset} (h : r.Sound) (hpresent : r.state.present = true) : r.lapse.Sound := by
  cases hst : r.state with
  | active =>
    obtain ⟨herrors, -, hquiet, hcount⟩ := h.fits hst
    exact sound_of_fits rfl ⟨herrors.trans (by omega), rfl, hquiet, hcount⟩
  | held =>
    obtain ⟨-, hmost, -, hquiet, hcount⟩ := h.fits hst
    exact sound_of_fits rfl ⟨hmost, rfl, hquiet, hcount⟩
  | absent | barred =>
    rw [hst] at hpresent
    cases hpresent

theorem Handset.release_sound (r : Handset) (now : Count32) : (r.release now).Sound :=
  sound_of_fits rfl ⟨Nat.zero_lt_succ _, rfl, rfl, rfl⟩

theorem Handset.vacate_sound (r : Handset) : r.vacate.Sound := sound_of_fits rfl ⟨Nat.zero_lt_succ _, rfl, rfl, rfl⟩

/-- The state of a handset that is not BARRED follows any counter it is given (R139). -/
theorem Handset.Sound.follow {r : Handset} (h : r.Sound) (hst : r.state ≠ .barred) (e : Nat) (now : Count32) :
    (r.follow e now).Sound := by
  unfold Handset.follow
  split_ifs with hbars hholds hfrees
  · exact sound_of_fits rfl ⟨rfl, rfl, rfl, Nat.zero_lt_succ _⟩
  · obtain ⟨-, hpresence, hquiet, hcount⟩ := h.fits hholds.1
    exact sound_of_fits rfl ⟨hholds.2, not_le.1 hbars, hpresence, hquiet, hcount⟩
  · obtain ⟨-, -, hpresence, hquiet, hcount⟩ := h.fits hfrees.1
    exact sound_of_fits rfl ⟨hfrees.2, hpresence, hquiet, hcount⟩
  · cases hstate : r.state with
    | absent =>
      obtain ⟨-, hpresence, hquiet, hcount⟩ := h.fits hstate
      exact sound_of_fits rfl ⟨not_le.1 hbars, hpresence, hquiet, hcount⟩
    | active =>
      obtain ⟨-, hpresence, hquiet, hcount⟩ := h.fits hstate
      exact sound_of_fits rfl ⟨not_le.1 fun hle => hholds ⟨hstate, hle⟩, hpresence, hquiet, hcount⟩
    | held =>
      obtain ⟨-, -, hpresence, hquiet, hcount⟩ := h.fits hstate
      exact sound_of_fits rfl ⟨not_lt.1 fun hlt => hfrees ⟨hstate, hlt⟩, not_le.1 hbars, hpresence, hquiet, hcount⟩
    | barred => exact absurd hstate hst

/-- A quiet interval that counts, or a packet that begins the count anew (R140). -/
theorem Handset.Sound.quiet {r : Handset} (h : r.Sound) (hst : r.state = .barred) {n : Nat} (hn : n < 128) (now : Count32)
    (seq : Option Byte) : Handset.Sound { r with quietCount := n, quiet := some now, lastSequence := seq } := by
  obtain ⟨herrors, hpresence, -, -⟩ := h.fits hst
  exact sound_of_fits hst ⟨herrors, hpresence, rfl, hn⟩

/-! ### The table -/

theorem HandsetsSound.of_records {s t : State} (hs : HandsetsSound s) (h : t.handsets.records = s.handsets.records) :
    HandsetsSound t := by
  simpa only [HandsetsSound, h] using hs

theorem HandsetsSound.congr {s t : State} (hs : HandsetsSound s) (h : t.handsets = s.handsets) : HandsetsSound t :=
  hs.of_records (by rw [h])

theorem HandsetsSound.put {s : State} (hs : HandsetsSound s) (h : Fin 16) {r : Handset} (hr : r.Sound) :
    HandsetsSound (putHandset h r s) := forall_setAt (p := Handset.Sound) hs h hr

theorem HandsetsSound.change {s : State} (hs : HandsetsSound s) (h : Fin 16) {r : Handset} (hr : r.Sound) :
    HandsetsSound (changeHandset h r s) := by
  rw [HandsetsSound, changeHandset_record]
  exact forall_setAt (p := Handset.Sound) hs h hr

theorem HandsetsSound.reply {s : State} (hs : HandsetsSound s) (h : Fin 16) (seq : Byte) (a : Answer) :
    HandsetsSound (writeReply h seq a s) := by
  have hput := hs.put h (r := { s.handsets.records[h] with
    reply := { sequence := seq, outcome := a.outcome, tag := a.tag, position := a.position
               pendingCount := s.queue.pendingCount h }
    replyCount := s.handsets.records[h].replyCount + 1 }) (hs h)
  exact hput.of_records (by simp [writeReply, bumpHandsets])

/-- A reply leaves the state of every handset. -/
theorem writeReply_state (h k : Fin 16) (seq : Byte) (a : Answer) (s : State) :
    ((writeReply h seq a s).handsets.records[k]).state = (s.handsets.records[k]).state := by
  simp only [writeReply, raise_frame, bumpHandsets]
  exact putHandset_state h k _ s rfl

theorem HandsetsSound.conclude {s : State} (hs : HandsetsSound s) (h : Fin 16) (seq : Byte) (a : Answer)
    (hst : (s.handsets.records[h]).state ≠ .barred) : HandsetsSound (concludePacket h seq a s) := by
  have hreplied : HandsetsSound (writeReply h seq a (putHandset h { s.handsets.records[h] with lastSequence := some seq } s)) :=
    (hs.put h (r := { s.handsets.records[h] with lastSequence := some seq }) (hs h)).reply h seq a
  simp only [concludePacket]
  refine hreplied.change h ((hreplied h).follow ?_ _ _)
  rwa [writeReply_state, putHandset_state _ _ _ _ (by rfl)]

theorem HandsetsSound.presence {s : State} (hs : HandsetsSound s) (h : Fin 16) : HandsetsSound (expirePresence h s) := by
  unfold expirePresence
  split
  case isTrue hdue => exact hs.change h ((hs h).lapse (Bool.and_eq_true_iff.1 hdue).1)
  case isFalse => exact hs

theorem HandsetsSound.quiet {s : State} (hs : HandsetsSound s) (h : Fin 16) : HandsetsSound (expireQuiet h s) := by
  simp only [expireQuiet]
  split_ifs with hdue hfree
  · exact hs.change h (Handset.release_sound _ _)
  · have hbarred : (s.handsets.records[h]).state = .barred := by simpa using (Bool.and_eq_true_iff.1 hdue).1
    exact hs.put h ((hs h).quiet hbarred (not_le.1 hfree) s.timebase _)
  · exact hs

theorem HandsetMove.keeps_handsets {s t : State} (h : HandsetMove s t) (hs : HandsetsSound s) : HandsetsSound t := by
  cases h with
  | heard h => exact hs.change h ((hs h).heard _)
  | reply h seq a => exact hs.reply h seq a
  | barred h seq isBarred =>
    exact (hs.put h ((hs h).quiet isBarred (n := 0) (by omega) s.timebase (some seq))).reply h seq _
  | battery head => exact hs.put head.handset (hs head.handset)
  | vote h =>
    exact (hs.put h (r := { s.handsets.records[h] with vote := true }) (hs h)).of_records (skipTest_records _)
  | conclude h seq a notBarred => exact hs.conclude h seq a notBarred
  | presence h => exact hs.presence h
  | quiet h => exact hs.quiet h
  | release h => exact hs.change h (Handset.release_sound _ _)

/-- A load alone reaches the handsets, to withdraw their votes (R137). -/
theorem SongMove.handsets_cases {s t : State} (h : SongMove s t) :
    t.handsets = s.handsets ∨ t.handsets.records = mapAll Handset.unvote s.handsets.records := by
  cases h with
  | load a r n es => exact .inr (by rw [applyLoad_eq])
  | _ => exact .inl (by simp)

theorem HandsetsSound.vacate (s : State) : HandsetsSound (vacateHandsets s) := fun h => by
  rw [(vacateHandsets_vacated s).1 h]
  exact Handset.vacate_sound _

theorem RoomMove.keeps_handsets {s t : State} (h : RoomMove s t) (hs : HandsetsSound s) : HandsetsSound t := by
  cases h with
  | opens r =>
    have hvacated := HandsetsSound.vacate (clearQueue (setRoom .opened r (some s.timebase) s))
    exact hvacated.congr (by simp [applyRoomOpen, raiseIfLow])
  | close => exact HandsetsSound.vacate _
  | extend r | reopen r | second => exact hs.congr (by simp [raiseIfLow])

theorem Move.keeps_handsets {s t : State} (h : Move s t) (hs : HandsetsSound s) : HandsetsSound t := by
  cases h with
  | record h | table h | lyrics h | capture h | queue h => exact hs.congr (by simp [h.frame])
  | bus h => rw [h.frame]; exact hs
  | song h =>
    rcases h.handsets_cases with hh | hh
    · exact hs.congr hh
    · rw [HandsetsSound, hh]
      exact forall_mapAll (p := Handset.Sound) fun k => hs k
  | handset h => exact h.keeps_handsets hs
  | room h => exact h.keeps_handsets hs
  | reset h => rw [h]; exact handsetsSound_reset

/-- Settles O53, move by move. -/
theorem stepKeepsHandsetsSound : Obligations.StepKeepsHandsetsSound :=
  fun _ _ hs h => step_keeps (fun _ _ hm => hm.keeps_handsets) (fun _ _ _ _ hp => hp) hs h

end Sys2Proof.Machine
end

section
/-! The invariant of the Score Engine, move by move (R113 to R126). -/

namespace Sys2Proof.Machine

/-! ### Scores (R120 to R122) -/

theorem scoreOf_le {frames credits hit counted : Nat} (hcredits : credits ≤ 4 * frames) (hhit : hit ≤ counted) :
    scoreOf frames credits hit counted ≤ 10000 := by
  unfold scoreOf
  split_ifs
  · omega
  · exact Nat.div_le_of_le_mul (by nlinarith)
  · have hvoice : 8000 * credits / (4 * frames) ≤ 8000 := Nat.div_le_of_le_mul (by nlinarith)
    have honset : 2000 * hit / counted ≤ 2000 := Nat.div_le_of_le_mul (by nlinarith)
    omega

theorem Channel.Sound.score_le {c : Channel} (h : c.Sound) : c.score ≤ 10000 :=
  scoreOf_le h.2.1 h.2.2.2.1

theorem Channel.Sound.final_le {c : Channel} (h : c.Sound) : c.final.score ≤ 10000 := by
  unfold Channel.final
  split_ifs
  · exact Nat.zero_le _
  · exact Nat.zero_le _
  · exact h.score_le

/-! ### Channels (R113 to R121) -/

theorem Channel.Sound.closeNote {c : Channel} (h : c.Sound) (tolerance : Nat) : (c.closeNote tolerance).Sound := by
  unfold Channel.closeNote
  split
  case h_1 => exact h
  case h_2 n _ =>
    obtain ⟨hframes, hcredits, hhit, honsets, hcounted, -, -⟩ := h
    have hjudged : (if (n.judged && n.onTime tolerance) = true then 1 else 0) ≤ if n.judged = true then 1 else 0 := by
      cases n.judged <;> cases n.onTime tolerance <;> decide
    have hjudged1 : (if n.judged = true then 1 else 0) ≤ 1 := by split <;> omega
    have hnote1 : (if 50 ≤ n.result then 1 else 0) ≤ 1 := by split <;> omega
    refine ⟨hframes, hcredits, Nat.add_le_add hhit hnote1, Nat.add_le_add honsets hjudged,
      Nat.add_le_add hcounted hjudged1, ?_, nofun⟩
    exact scoreOf_le hcredits (Nat.add_le_add honsets hjudged)

theorem Channel.noteFor_counts {c : Channel} (h : c.Sound) (slot : Nat) (n : Note) :
    (c.noteFor slot n).credits ≤ 4 * (c.noteFor slot n).frames := by
  unfold noteFor
  split
  case h_1 o ho => exact (h.2.2.2.2.2.2 o ho).2
  case h_2 => exact Nat.zero_le _

theorem Channel.Sound.countFrame {c : Channel} (h : c.Sound) (hroom : c.frames < 65535) (slot : Nat) (n : Note)
    (note tf : Nat) (e : Estimate) : (c.countFrame slot n note tf e).Sound := by
  have hcredit := (frameCredit_ruled c note e).1
  have hnote := Channel.noteFor_counts h slot n
  obtain ⟨-, hcredits, hhit, honsets, hcounted, hrunning, -⟩ := h
  refine ⟨hroom, ?_, hhit, honsets, hcounted, hrunning, ?_⟩
  · simp only [Channel.countFrame]
    omega
  · intro o ho
    cases ho
    simp only
    omega

theorem Channel.closeNote_frames (c : Channel) (tolerance : Nat) : (c.closeNote tolerance).frames = c.frames := by
  unfold closeNote
  split <;> rfl

theorem judgedAt_frames {k : SongClock} {c : Channel} {e : Estimate} {tf : Nat} (h : judgedAt k c e = some tf) :
    c.frames < 65535 := by
  unfold judgedAt at h
  split at h
  case isTrue hjudged =>
    simp only [Bool.and_eq_true, decide_eq_true_eq] at hjudged
    exact hjudged.2
  case isFalse => cases h

theorem Channel.Sound.post {c : Channel} (h : c.Sound) (k : SongClock) (m : Mem) (e : Estimate) : (c.post k m e).1.Sound := by
  have hlatest : Channel.Sound { c with latest := e } := h
  simp only [Channel.post]
  split
  case h_1 => exact hlatest
  case h_2 tf htf =>
    have hroom := judgedAt_frames htf
    split
    case h_1 => exact hlatest.closeNote _
    case h_2 slot _ =>
      split
      case isTrue => exact (hlatest.closeNote _).countFrame (by rwa [Channel.closeNote_frames]) _ _ _ _ _
      case isFalse => exact hlatest.countFrame hroom _ _ _ _ _

theorem Channel.load_sound (c : Channel) (part : Part) (difficulty : Difficulty) (key : Int) :
    (c.load part difficulty key).Sound := by
  simp [Sound, load, Channel.reset]

/-! ### The board (R126) -/

/-- A scoreboard entry in its ranges. -/
def BoardEntry.Sound (b : BoardEntry) : Prop := b.completed ≤ 255 ∧ b.last ≤ 10000 ∧ b.best ≤ 10000

theorem BoardEntry.Sound.credit {b : BoardEntry} (h : b.Sound) {lead : Option Nat} (hlead : ∀ f, lead = some f → f ≤ 10000) :
    (b.credit lead).Sound := by
  obtain ⟨-, hlast, hbest⟩ := h
  unfold BoardEntry.credit
  split
  case h_1 f => exact ⟨Nat.min_le_right _ _, hlead f rfl, max_le hbest (hlead f rfl)⟩
  case h_2 => exact ⟨Nat.min_le_right _ _, hlast, hbest⟩

/-! ### The engine -/

/-- The channels, finals and board of `ScoresSound`, as a property of the engine's state. -/
def Score.Sound (x : Score) : Prop :=
  (∀ c : Fin 4, (x.channels[c]).Sound) ∧ (∀ c : Fin 4, (x.result.finals[c]).score ≤ 10000) ∧
    ∀ h : Fin 16, (x.board[h]).Sound

theorem scoresSound_iff (s : State) : ScoresSound s ↔ s.score.Sound := Iff.rfl

theorem Score.Sound.congr {x y : Score} (h : x.Sound) (hchannels : y.channels = x.channels) (hresult : y.result = x.result)
    (hboard : y.board = x.board) : y.Sound := by
  simpa only [Score.Sound, hchannels, hresult, hboard] using h

theorem Score.Sound.channels {x : Score} (h : x.Sound) {v : Vector Channel 4} (hv : ∀ c : Fin 4, (v[c]).Sound) :
    Score.Sound { x with channels := v } := ⟨hv, h.2⟩

theorem Score.Sound.scoreEstimate {s : State} (h : s.score.Sound) (c : Fin 4) (e : Estimate) :
    (scoreEstimate c e s).score.Sound :=
  h.channels (forall_setAt (p := Channel.Sound) h.1 c ((h.1 c).post s.clock s.melody e))

theorem Score.Sound.postFlight {s : State} (h : s.score.Sound) (c : Fin 4) : (postFlight c s).score.Sound := by
  unfold Machine.postFlight
  split
  case h_1 => exact h
  case h_2 f _ => exact Score.Sound.scoreEstimate (s := putFlight c none s) h c f.estimate

theorem Score.Sound.appendBeat {s : State} (h : s.score.Sound) (c : Fin 4) (w : Win) (a : Addr) (d : Data) :
    (appendBeat c w a d s).score.Sound := by
  simp only [Machine.appendBeat]
  split
  case isTrue => exact Score.Sound.postFlight (s := putFramer c _ s) h c
  case isFalse => exact h

theorem Score.Sound.captureBeat {s : State} (h : s.score.Sound) (c : Fin 4) (w : Win) (a : Addr) (d : Data) (en : Enables) :
    (captureBeat c w a d en s).score.Sound := by
  simp only [Machine.captureBeat]
  split
  case h_1 =>
    split
    case isTrue => exact Score.Sound.appendBeat (s := putFramer c _ s) h c w a d
    case isFalse => exact h
  case h_2 =>
    split
    case isTrue => exact h.appendBeat c w a d
    case isFalse => simpa using h

theorem CaptureMove.keeps_scores {s t : State} (h : CaptureMove s t) (hs : s.score.Sound) : t.score.Sound := by
  cases h with
  | beat c w a d en => exact hs.captureBeat c w a d en
  | append c w a d => exact hs.appendBeat c w a d
  | post c => exact hs.postFlight c
  | restart => exact hs

/-! ### Ends and postings (R121 to R126) -/

theorem Score.Sound.closeAllNotes {s : State} (h : s.score.Sound) : (closeAllNotes s).score.Sound :=
  h.channels (forall_mapAll (p := Channel.Sound) fun c => (h.1 c).closeNote _)

theorem Score.Sound.endSong {s : State} (h : s.score.Sound) (o : EndOutcome) : (endSong o s).score.Sound := by
  have hended : (raise .songEnded { s with clock := s.clock.finish o }).score.Sound := by simpa using h
  exact hended.closeAllNotes.congr (by simp [Machine.endSong]) (by simp [Machine.endSong]) (by simp [Machine.endSong])

theorem Score.Sound.playback {s : State} (h : s.score.Sound) (w : Win) (a : Addr) : (playbackBeat w a s).score.Sound := by
  have hcount : ∀ u : State, u.score.Sound → (countBeat w a u).score.Sound := by
    intro u hu
    simp only [countBeat]
    split
    case isTrue => exact Score.Sound.endSong (s := { u with clock := u.clock.count u.timebase w a }) hu .complete
    case isFalse => exact hu
  unfold playbackBeat
  split
  case h_1 | h_2 | h_3 => exact h
  case h_4 => exact hcount _ h
  case h_5 | h_6 =>
    split
    case isTrue => exact hcount s h
    case isFalse => simpa using h

theorem Score.Sound.leadFinal {x : Score} (h : x.Sound) : ∀ f, x.leadFinal = some f → f ≤ 10000 := by
  intro f hf
  obtain ⟨c, -, rfl⟩ := Option.map_eq_some_iff.1 hf
  exact (h.1 c).final_le

theorem Score.Sound.creditBoard {x : Score} (h : x.Sound) (o : EndOutcome) (r : Requester) (k : Fin 16) :
    ((creditBoard o x.leadFinal r x.board)[k]).Sound := by
  unfold Machine.creditBoard
  split
  case h_1 k' =>
    split
    case isTrue => exact forall_setAt (p := BoardEntry.Sound) h.2.2 k' ((h.2.2 k').credit h.leadFinal) k
    case isFalse => exact h.2.2 k
  all_goals exact h.2.2 k

theorem Score.Sound.completePosting {s : State} (h : s.score.Sound) (o : EndOutcome) : (completePosting o s).score.Sound := by
  have hposted : Score.Sound { s.score with
      result := postedResult o s, board := Machine.creditBoard o s.score.leadFinal s.queue.requester s.score.board, posting := none } :=
    ⟨h.1, forall_mapAll (p := fun f : Final => f.score ≤ 10000) fun c => (h.1 c).final_le,
      fun k => h.creditBoard o s.queue.requester k⟩
  exact hposted.congr (by simp [Machine.completePosting, bumpScore]) (by simp [Machine.completePosting, bumpScore])
    (by simp [Machine.completePosting, bumpScore])

theorem clearBoard_sound {s : State} (h : s.score.Sound) : (clearBoard s).score.Sound :=
  ⟨h.1, h.2.1, fun k => by simp [clearBoard, BoardEntry.Sound, BoardEntry.reset]⟩

theorem SongMove.keeps_scores {s t : State} (h : SongMove s t) (hs : s.score.Sound) : t.score.Sound := by
  cases h with
  | playback w a => exact hs.playback w a
  | stall => simpa using hs
  | load a r n es =>
    have hloaded : (loadChannels r.parts n.difficulty n.key s).score.Sound :=
      hs.channels fun c => loadChannels_get r.parts n.difficulty n.key s c ▸ Channel.load_sound _ _ _ _
    rw [applyLoad_eq]
    exact hloaded
  | start => exact hs
  | seek position line =>
    have hclosed : (standbyEvaluate (clearChain line
        (closeAllNotes { s with clock := s.clock.seek position s.timebase }))).score.Sound := by
      simpa using Score.Sound.closeAllNotes (s := { s with clock := s.clock.seek position s.timebase }) hs
    simp only [applySeek]
    split
    case isTrue => exact hclosed.endSong .complete
    case isFalse => exact hclosed
  | ends o => exact hs.endSong o
  | post p => exact hs.completePosting p.outcome
  | clearBoard => exact clearBoard_sound (s := s) hs

theorem RoomMove.board_cases {s t : State} (h : RoomMove s t) :
    t.score.board = s.score.board ∨ t.score.board = (clearBoard s).score.board := by
  cases h with
  | opens r => exact .inr (by rw [applyRoomOpen_score])
  | _ => exact .inl (by simp [raiseIfLow])

theorem RoomMove.keeps_scores {s t : State} (h : RoomMove s t) (hs : s.score.Sound) : t.score.Sound := by
  rcases h.board_cases with hboard | hboard
  · exact hs.congr (by simp [h.frame]) (by simp [h.frame]) hboard
  · have hcleared := clearBoard_sound (s := s) hs
    exact hcleared.congr (by simp [h.frame, clearBoard]) (by simp [h.frame, clearBoard]) hboard

theorem Move.keeps_scores {s t : State} (h : Move s t) (hs : ScoresSound s) : ScoresSound t := by
  rw [scoresSound_iff] at hs ⊢
  cases h with
  | record h | table h | lyrics h | queue h | handset h => simpa [h.frame] using hs
  | bus h => rw [h.frame]; exact hs
  | capture h => exact h.keeps_scores hs
  | song h => exact h.keeps_scores hs
  | room h => exact h.keeps_scores hs
  | reset h => rw [h]; exact scoresSound_reset

/-- Settles O58, move by move. -/
theorem stepKeepsScoresSound : Obligations.StepKeepsScoresSound :=
  fun _ _ hs h => step_keeps (fun _ _ hm => hm.keeps_scores) (fun _ _ _ _ hp => hp) hs h

end Sys2Proof.Machine
end

section
/-! The invariant of the song clock, the posting and the now-playing record, move by move (sections 3.2 to 3.6, 9.1). -/

namespace Sys2Proof.Machine

theorem nearestRate_cases (v : Nat) : nearestRate v = 32000 ∨ nearestRate v = 44100 ∨ nearestRate v = 48000 := by
  unfold nearestRate
  split_ifs <;> decide

/-! ### The invariant of the three parts it joins -/

/-- `ClockSound` of a clock, whether a posting is in flight, and whether a song is now playing. -/
def SongClock.Accord (c : SongClock) (posting playing : Bool) : Prop :=
  (c.stall.isSome = true ↔ c.state = .running) ∧
    (c.state = .idle ∨ c.state = .loaded ∨ c.state = .armed → c.frames = 0 ∧ c.expected = none) ∧
    (c.state = .running ∨ c.state = .stalled → c.countedMs < c.duration) ∧
    (c.state ≠ .idle → 1 ≤ c.duration ∧ c.duration ≤ 1800000) ∧
    (c.rate = 32000 ∨ c.rate = 44100 ∨ c.rate = 48000) ∧
    (c.postingDone = false → c.state = .ended) ∧
    (posting = true ↔ c.postingDone = false) ∧
    (playing = true ↔ (c.state.inProgress = true ∨ c.postingDone = false))

theorem clockSound_iff (s : State) :
    ClockSound s ↔ s.clock.Accord s.score.posting.isSome s.queue.nowPlaying.isSome := Iff.rfl

theorem ClockSound.congr {s t : State} (h : ClockSound s) (hclock : t.clock = s.clock)
    (hposting : t.score.posting = s.score.posting) (hplaying : t.queue.nowPlaying = s.queue.nowPlaying) : ClockSound t := by
  rwa [clockSound_iff, hclock, hposting, hplaying]

/-- What the invariant says of a clock whose song is in progress: a posting is not in flight, a song is playing. -/
structure SongClock.Playing (c : SongClock) (posting playing : Bool) : Prop where
  duration : 1 ≤ c.duration ∧ c.duration ≤ 1800000
  rate : c.rate = 32000 ∨ c.rate = 44100 ∨ c.rate = 48000
  done : c.postingDone = true
  posting : posting = false
  playing : playing = true

theorem SongClock.Accord.inProgress {c : SongClock} {posting playing : Bool} (h : c.Accord posting playing)
    (hp : c.state.inProgress = true) : c.Playing posting playing := by
  obtain ⟨-, -, -, hduration, hrate, hended, hposting, hplaying⟩ := h
  have hdone : c.postingDone = true := by
    cases hd : c.postingDone with
    | true => rfl
    | false => rw [hended hd] at hp; cases hp
  refine ⟨hduration fun hidle => ?_, hrate, hdone, ?_, hplaying.2 (.inl hp)⟩
  · rw [hidle] at hp; cases hp
  · simpa [hdone] using hposting

/-- The clock of a song that ends: its posting is begun, and the song is still the one playing (R48). -/
theorem SongClock.Playing.finish {c : SongClock} {posting playing : Bool} (h : c.Playing posting playing) (o : EndOutcome) :
    (c.finish o).Accord true playing := by
  simp [Accord, SongClock.finish, SongState.inProgress, h.duration.1, h.duration.2, h.rate, h.playing]

/-- A running or stalled clock short of its duration. -/
theorem SongClock.Playing.runs {c : SongClock} {posting playing : Bool} (h : c.Playing posting playing)
    (hstate : c.state = .running ∧ c.stall.isSome = true ∨ c.state = .stalled ∧ c.stall = none)
    (hms : c.countedMs < c.duration) : c.Accord posting playing := by
  rcases hstate with ⟨hs, hstall⟩ | ⟨hs, hstall⟩ <;>
    simp [Accord, hs, hstall, hms, SongState.inProgress, h.duration.1, h.duration.2, h.rate, h.done, h.posting, h.playing]

/-! ### The song's moves (R41 to R53, R125) -/

theorem endSong_clockSound {s : State} (o : EndOutcome)
    (h : s.clock.Playing s.score.posting.isSome s.queue.nowPlaying.isSome) : ClockSound (endSong o s) := by
  obtain ⟨hclock, hposting, -, hqueue, -⟩ := endSong_ended o s
  rw [clockSound_iff, hclock, hposting, hqueue]
  exact h.finish o

theorem countBeat_clockSound {s : State} (w : Win) (a : Addr)
    (h : s.clock.Playing s.score.posting.isSome s.queue.nowPlaying.isSome) : ClockSound (countBeat w a s) := by
  have hcount : (s.clock.count s.timebase w a).Playing s.score.posting.isSome s.queue.nowPlaying.isSome :=
    ⟨h.duration, h.rate, h.done, h.posting, h.playing⟩
  simp only [countBeat]
  split
  case isTrue => exact endSong_clockSound (s := { s with clock := s.clock.count s.timebase w a }) .complete hcount
  case isFalse hshort => exact hcount.runs (.inl ⟨rfl, rfl⟩) (Nat.lt_of_not_le hshort)

theorem ClockSound.playback {s : State} (h : ClockSound s) (w : Win) (a : Addr) : ClockSound (playbackBeat w a s) := by
  have hresync : s.clock.state = .running ∨ s.clock.state = .stalled →
      ClockSound (raise .clockDiscontinuity { s with clock := s.clock.resync w a }) := by
    intro hstate
    obtain ⟨hstall, -, hms, hrest⟩ := h
    refine ClockSound.congr (s := { s with clock := s.clock.resync w a }) ?_ (by simp) (by simp) (by simp)
    refine ⟨hstall, fun hstill => ?_, hms, hrest⟩
    change s.clock.state = .idle ∨ s.clock.state = .loaded ∨ s.clock.state = .armed at hstill
    rcases hstate with hstate | hstate <;> simp [hstate] at hstill
  have hplaying : s.clock.state.inProgress = true → _ := SongClock.Accord.inProgress h
  unfold playbackBeat
  split
  case h_1 | h_2 | h_3 => exact h
  case h_4 hstate =>
    obtain ⟨hduration, hrate, hdone, hposting, hnow⟩ := hplaying (by rw [hstate]; rfl)
    exact countBeat_clockSound w a ⟨hduration, hrate, hdone, hposting, hnow⟩
  case h_5 hstate | h_6 hstate =>
    split
    case isTrue => exact countBeat_clockSound w a (hplaying (by rw [hstate]; rfl))
    case isFalse => exact hresync (by simp [hstate])

theorem ClockSound.stall {s : State} (h : ClockSound s) : ClockSound (expireStall s) := by
  unfold expireStall
  split
  case isFalse => exact h
  case isTrue hdue =>
    have hrunning : s.clock.state = .running := by
      simp only [stallDue, Bool.and_eq_true, decide_eq_true_eq] at hdue
      exact hdue.1
    obtain ⟨hduration, hrate, hdone, hposting, hnow⟩ := SongClock.Accord.inProgress h (by rw [hrunning]; rfl)
    obtain ⟨-, -, hms, -⟩ := h
    have hstalled : SongClock.Playing { s.clock with state := .stalled, stall := none } s.score.posting.isSome
        s.queue.nowPlaying.isSome := ⟨hduration, hrate, hdone, hposting, hnow⟩
    refine ClockSound.congr (s := { s with clock := { s.clock with state := .stalled, stall := none } }) ?_
      (by simp) (by simp) (by simp)
    exact hstalled.runs (.inr ⟨rfl, rfl⟩) (hms (.inl hrunning))

theorem loadArguments_duration {a : SongLoadArgs} {r : LoadRequest} (h : loadArguments a = some r) :
    1 ≤ r.duration ∧ r.duration ≤ 1800000 := by
  simp only [loadArguments] at h
  split at h
  case isFalse => cases h
  case isTrue hrange =>
    simp only [Bool.and_eq_true, decide_eq_true_eq] at hrange
    obtain ⟨⟨⟨⟨⟨⟨hleast, hmost⟩, -⟩, -⟩, -⟩, -⟩, -⟩ := hrange
    have hr : r.duration = a.duration.toNat := by
      split at h
      · cases h; rfl
      · split at h
        · split at h
          · cases h; rfl
          · cases h
        · cases h
    omega

theorem ClockSound.load {s : State} (h : ClockSound s) {r : LoadRequest} (n : NowPlaying) (es : List Entry)
    (hduration : 1 ≤ r.duration ∧ r.duration ≤ 1800000) (hloadable : s.clock.loadable = true) :
    ClockSound (applyLoad r n es s) := by
  have hdone : s.clock.postingDone = true := by
    obtain ⟨-, -, -, -, -, hended, -⟩ := h
    cases hd : s.clock.postingDone with
    | true => rfl
    | false => simp [SongClock.loadable, hended hd, hd] at hloadable
  have hposting : s.score.posting = none := by
    obtain ⟨-, -, -, -, -, -, hposting, -⟩ := h
    simpa [hdone] using hposting
  have hrate : playbackRate s.anchor.bytes = 32000 ∨ playbackRate s.anchor.bytes = 44100 ∨ playbackRate s.anchor.bytes = 48000 :=
    nearestRate_cases _
  rw [clockSound_iff, applyLoad_eq]
  simp [SongClock.Accord, loadClock, loadChannels, SongState.inProgress, hposting, hduration, hrate]

theorem SongClock.seek_countedMs {c : SongClock} (hrate : c.rate = 32000 ∨ c.rate = 44100 ∨ c.rate = 48000) (position : Nat)
    (now : Count32) : (c.seek position now).countedMs = position :=
  seek_position position c.rate c.latency (by omega)

theorem ClockSound.seek {s : State} (h : ClockSound s) {position : Nat} (line : Nat) (hwithin : position ≤ s.clock.duration)
    (hruns : s.clock.state = .running ∨ s.clock.state = .stalled) : ClockSound (applySeek position line s) := by
  have hplaying := SongClock.Accord.inProgress h (by rcases hruns with hr | hr <;> rw [hr] <;> rfl)
  obtain ⟨hstall, -⟩ := h
  have hseek : (s.clock.seek position s.timebase).Playing s.score.posting.isSome s.queue.nowPlaying.isSome := by
    obtain ⟨hduration, hrate, hdone, hposting, hnow⟩ := hplaying
    exact ⟨hduration, hrate, hdone, hposting, hnow⟩
  let u := standbyEvaluate (clearChain line (closeAllNotes { s with clock := s.clock.seek position s.timebase }))
  have hclock : u.clock = s.clock.seek position s.timebase := by simp [u]
  have hposting : u.score.posting = s.score.posting := by simp [u, closeAllNotes, bumpScore]
  have hnow : u.queue.nowPlaying = s.queue.nowPlaying := by simp [u, standbyEvaluate_rest]
  rw [← hclock, ← hposting, ← hnow] at hseek
  simp only [applySeek]
  split
  case isTrue => exact endSong_clockSound (s := u) .complete hseek
  case isFalse hne =>
    refine hseek.runs ?_ ?_
    · rw [hclock]
      rcases hruns with hr | hr
      · exact .inl (by simp [SongClock.seek, hr])
      · exact .inr (by simpa [SongClock.seek, hr] using hstall)
    · rw [hclock, SongClock.seek_countedMs hplaying.rate]
      exact Nat.lt_of_le_of_ne hwithin hne

theorem retire_nowPlaying (s : State) : (retire s).queue.nowPlaying = none := by
  simp [retire, standbyEvaluate_rest]

theorem ClockSound.post {s : State} (h : ClockSound s) {p : Posting} (hp : s.score.posting = some p) (o : EndOutcome) :
    ClockSound (completePosting o s) := by
  obtain ⟨hstall, hstill, hms, hduration, hrate, hended, hposting, -⟩ := h
  have hstate : s.clock.state = .ended := hended (hposting.1 (by rw [hp]; rfl))
  have hplaying : (completePosting o s).queue.nowPlaying = none := by
    simp only [completePosting]
    exact retire_nowPlaying _
  rw [clockSound_iff, hplaying]
  simp [completePosting, bumpScore, SongClock.Accord, hstate, SongState.inProgress, hrate]
  simpa [hstate] using And.intro hstall hduration

theorem SongMove.keeps_clock {s t : State} (h : SongMove s t) (hs : ClockSound s) : ClockSound t := by
  cases h with
  | playback w a => exact hs.playback w a
  | stall => exact hs.stall
  | load a r n es arguments loadable => exact hs.load n es (loadArguments_duration arguments) loadable
  | start loaded =>
    obtain ⟨hduration, hrate, hdone, hposting, hnow⟩ := SongClock.Accord.inProgress hs (by rw [loaded]; rfl)
    obtain ⟨hstall, hstill, -⟩ := hs
    have hnone : s.clock.stall = none := by simpa [loaded] using hstall
    obtain ⟨hframes, hexpected⟩ := hstill (.inr (.inl loaded))
    rw [clockSound_iff]
    simp [SongClock.Accord, SongState.inProgress, hnone, hframes, hexpected, hduration, hrate, hdone, hposting, hnow]
  | seek position line hline within runs => exact hs.seek line within runs
  | ends o inProgress => exact endSong_clockSound o (SongClock.Accord.inProgress hs inProgress)
  | post p posting => exact hs.post posting p.outcome
  | clearBoard => exact hs.congr (by simp) (by simp [bumpScore, Machine.clearBoard]) (by simp)

/-! ### The other blocks -/

theorem clearQueue_nowPlaying (s : State) : (clearQueue s).queue.nowPlaying = s.queue.nowPlaying := by
  unfold clearQueue
  split <;> simp

theorem postFlight_posting (c : Fin 4) (s : State) : (postFlight c s).score.posting = s.score.posting := by
  unfold postFlight
  split
  case h_1 => rfl
  case h_2 => simp [scoreEstimate, bumpScore, putChannel]

theorem appendBeat_posting (c : Fin 4) (w : Win) (a : Addr) (d : Data) (s : State) :
    (appendBeat c w a d s).score.posting = s.score.posting := by
  simp only [appendBeat]
  split
  case isTrue => simp [completeFrame, postFlight_posting]
  case isFalse => simp

theorem CaptureMove.posting_eq {s t : State} (h : CaptureMove s t) : t.score.posting = s.score.posting := by
  cases h with
  | beat c w a d en =>
    simp only [captureBeat]
    split
    case h_1 => split <;> simp [appendBeat_posting]
    case h_2 => split <;> simp [appendBeat_posting]
  | append c w a d => exact appendBeat_posting c w a d s
  | post c => exact postFlight_posting c s
  | restart => simp

theorem QueueMove.nowPlaying_eq {s t : State} (h : QueueMove s t) : t.queue.nowPlaying = s.queue.nowPlaying := by
  cases h with
  | add position e => simp [addEntry, standbyEvaluate_rest]
  | remove i => simp [removeEntry, standbyEvaluate_rest]
  | merge i e => unfold mergeEntry; split <;> simp [putEntry]
  | move i n e => simp only [moveEntry, standbyEvaluate_rest]; split <;> simp
  | confirm i e => simp [standbyEvaluate_rest, putEntry]
  | pin i e p => simp [putEntry]
  | waiting c => simp

theorem RoomMove.nowPlaying_eq {s t : State} (h : RoomMove s t) : t.queue.nowPlaying = s.queue.nowPlaying := by
  cases h with
  | opens r => simp [applyRoomOpen, standbyEvaluate_rest, raiseIfLow, clearBoard, clearQueue_nowPlaying]
  | extend r => simp [standbyEvaluate_rest]
  | reopen r => simp [standbyEvaluate_rest, raiseIfLow]
  | close => simp [clearQueue_nowPlaying]
  | second =>
    simp only [expireSecond, applySecond]
    split_ifs <;> simp [standbyEvaluate_rest]

theorem Move.keeps_clock {s t : State} (h : Move s t) (hs : ClockSound s) : ClockSound t := by
  cases h with
  | record h | table h | lyrics h | handset h => exact hs.congr (by simp [h.frame]) (by simp [h.frame]) (by simp [h.frame])
  | bus h => rw [h.frame]; exact hs
  | capture h => exact hs.congr (by simp [h.frame]) h.posting_eq (by simp [h.frame])
  | song h => exact h.keeps_clock hs
  | queue h => exact hs.congr (by simp [h.frame]) (by simp [h.frame]) h.nowPlaying_eq
  | room h => exact hs.congr (by simp [h.frame]) (by simp [h.frame]) h.nowPlaying_eq
  | reset h => rw [h]; exact clockSound_reset

/-- Settles O57, move by move. -/
theorem stepKeepsClockSound : Obligations.StepKeepsClockSound :=
  fun _ _ hs h => step_keeps (fun _ _ hm => hm.keeps_clock) (fun _ _ _ _ hp => hp) hs h

end Sys2Proof.Machine
end

section
/-! The step, the resets and the records of commands (sections 1.4, 2.2, 2.3, 3.1). -/

namespace Sys2Proof.Machine

/-! ### The step -/

/-- Settles O1: the definition of a step with a command waiting. -/
theorem stepRunsFrontCommand : Obligations.StepRunsFrontCommand := by
  intro c rest s h
  rw [step, h]

theorem timerDue_iff (now : Count32) (length : Nat) (timer : Option Count32) :
    timerDue now length timer = true ↔ ∃ start, timer = some start ∧ length ≤ (now - start).toNat := by
  cases timer with
  | none => simp [timerDue]
  | some start =>
    simp only [timerDue, decide_eq_true_eq, Option.some.injEq, exists_eq_left']
    exact Iff.rfl

theorem chosenDue_none {s : State} (h : dueNow s = []) : chosenDue s = none := by simp [chosenDue, h]

theorem chosenDue_mem {s : State} (h : dueNow s ≠ []) : ∃ c ∈ dueNow s, chosenDue s = some c := by
  have hlt : Config.expiryChoice s.choices % (dueNow s).length < (dueNow s).length :=
    Nat.mod_lt _ (List.length_pos_iff.2 h)
  exact ⟨_, List.getElem_mem hlt, List.getElem?_eq_getElem hlt⟩

/-! What is due, event by event. -/

theorem stallDue_mem (s : State) : .stallTimerExpiry ∈ dueNow s ↔ stallDue s = true := by
  simp [dueNow]

theorem presenceDue_mem (s : State) (h : Fin 16) : .presenceExpiry h ∈ dueNow s ↔ presenceDue s h = true := by
  simp [dueNow]

theorem quietDue_mem (s : State) (h : Fin 16) : .quietIntervalExpiry h ∈ dueNow s ↔ quietDue s h = true := by
  simp [dueNow]

theorem secondDue_mem (s : State) : .roomSecondExpiry ∈ dueNow s ↔ secondDue s = true := by
  simp [dueNow]

theorem estimateDue_mem (s : State) (c : Fin 4) : .estimatePosting c ∈ dueNow s ↔ estimateDue s c = true := by
  simp [dueNow]

theorem postingDue_mem (s : State) : .resultPostingComplete ∈ dueNow s ↔ postingDue s = true := by
  simp [dueNow]

theorem HandsetState.present_iff (x : HandsetState) : x.present = true ↔ x = .active ∨ x = .held := by
  cases x <;> simp [HandsetState.present]

theorem presenceDue_iff (s : State) (h : Fin 16) :
    presenceDue s h = true ↔ ((s.handsets.records[h]).state = .active ∨ (s.handsets.records[h]).state = .held) ∧
      ∃ start, (s.handsets.records[h]).presence = some start ∧
        presenceMinutes s.anchor.bytes * 60000 ≤ (s.timebase - start).toNat := by
  simp [presenceDue, HandsetState.present_iff, timerDue_iff, presenceTicks]

theorem quietDue_iff (s : State) (h : Fin 16) :
    quietDue s h = true ↔ (s.handsets.records[h]).state = .barred ∧
      ∃ start, (s.handsets.records[h]).quiet = some start ∧ 10000 ≤ (s.timebase - start).toNat := by
  simp [quietDue, timerDue_iff]

theorem secondDue_iff (s : State) :
    secondDue s = true ↔ s.room.state = .opened ∧ ∃ start, s.room.timer = some start ∧ 1000 ≤ (s.timebase - start).toNat := by
  simp [secondDue, timerDue_iff]

theorem stallDue_iff (s : State) :
    stallDue s = true ↔ s.clock.state = .running ∧ ∃ start, s.clock.stall = some start ∧
      s.clock.stallTimeout ≤ (s.timebase - start).toNat := by
  simp [stallDue, timerDue_iff]

theorem estimateDue_iff (s : State) (c : Fin 4) :
    estimateDue s c = true ↔ s.busResetLow = false ∧ ∃ f, s.flights[c] = some f ∧ 32 ≤ (s.timebase - f.start).toNat := by
  unfold estimateDue
  split
  case h_1 f hf =>
    simp only [hf, Bool.and_eq_true, Bool.not_eq_true', decide_eq_true_eq, Option.some.injEq, exists_eq_left']
    exact Iff.rfl
  case h_2 hf => simp [hf]

theorem postingDue_iff (s : State) :
    postingDue s = true ↔ ∃ p, s.score.posting = some p ∧ 1 ≤ (s.timebase - p.start).toNat := by
  unfold postingDue
  split
  case h_1 p hp =>
    simp only [hp, decide_eq_true_eq, Option.some.injEq, exists_eq_left']
    exact Iff.rfl
  case h_2 hp => simp [hp]

/-- Settles O2: the due events are six filtered lists, and the choice among them is one of them. -/
theorem idleStepTakesDueEventOrTicks : Obligations.IdleStepTakesDueEventOrTicks := by
  intro s
  refine ⟨fun hidle => ⟨fun hnone => ?tick, fun hsome => ?due⟩, ?kinds, ?stall, ?presence, ?quiet, ?second, ?estimate, ?posting⟩
  case tick => simp only [step, hidle, idle, chosenDue_none hnone, tick]
  case due =>
    obtain ⟨c, hc, hchosen⟩ := chosenDue_mem hsome
    exact ⟨c, hc, by simp only [step, hidle, idle, hchosen, countChoice]⟩
  case kinds =>
    intro c hc
    simp only [dueNow, List.mem_append, List.mem_map] at hc
    obtain ((((hstall | ⟨h, -, rfl⟩) | ⟨h, -, rfl⟩) | hsecond) | ⟨n, -, rfl⟩) | hposting := hc
    · split at hstall <;> simp_all
    · simp
    · simp
    · split at hsecond <;> simp_all
    · simp
    · split at hposting <;> simp_all
  case stall => rw [stallDue_mem, stallDue_iff]
  case presence => intro h; rw [presenceDue_mem, presenceDue_iff]
  case quiet => intro h; rw [quietDue_mem, quietDue_iff]
  case second => rw [secondDue_mem, secondDue_iff]
  case estimate => intro n; rw [estimateDue_mem, estimateDue_iff]
  case posting => rw [postingDue_mem, postingDue_iff]

/-! ### The rows -/

theorem handOver_next (f : State → State) (s : State) : ∃ t, handOver f s = .next t := ⟨_, rfl⟩

theorem requestLegal_iff (r : BusRequest) :
    requestLegal r = true ↔ r.addr.toNat % 8 = 0 ∧ 1 ≤ r.beats ∧ r.beats ≤ 16 := by
  simp [requestLegal, and_assoc]

theorem unknownCode_iff (c : Byte) : unknownCode c = true ↔ c ≠ 0 ∧ c ∉ commandCodes := by
  simp [unknownCode]

theorem exec_next {c : Instr} (s : State) (h : c.wellFormed = true) : ∃ t, exec c s = .next t := by
  cases c with
  | requestAccept r => exact ⟨_, if_pos h⟩
  | unknown slot code =>
    simp only [Instr.wellFormed, Bool.and_eq_true] at h
    exact ⟨_, if_pos h.2⟩
  | packetUnknownKind head kind =>
    have hkind : ¬ kind.toNat < 5 := by simpa [Instr.wellFormed] using h
    exact ⟨_, if_neg hkind⟩
  | _ => exact ⟨_, rfl⟩

/-- Settles O3: a row stops only on its operand test, and a chain of moves leaves the queue of commands alone. -/
theorem wellFormedCommandsRun : Obligations.WellFormedCommandsRun := by
  refine ⟨fun c s hc => ?run, fun r s hr => ?protocol, fun slot code s hcode => ?code, fun head kind s hkind => ?kind⟩
  case run =>
    obtain ⟨t, ht⟩ := exec_next s hc
    exact ⟨t, ht, (exec_moves c ht).pending_eq⟩
  case protocol => exact if_neg (by rw [requestLegal_iff]; omega)
  case code => exact if_neg (by rw [unknownCode_iff]; tauto)
  case kind => exact if_pos (by omega)

/-! ### Cold reset (R19) -/

/-- Settles O21: both rows as defined. -/
theorem coldResetRestoresEveryBlock : Obligations.ColdResetRestoresEveryBlock := by
  intro s
  refine ⟨rfl, fun sel hlow => ?_⟩
  simp [exec, execColdResetRelease, coldRelease, hlow]

/-! ### Events (R28, R31, R34) -/

theorem Event.num_lt (e : Event) : e.num < 16 := by cases e <;> decide

/-- The events in the order of their numbers. -/
def eventsInOrder : List Event :=
  [.windowFault, .guardBlock, .commandRefused, .songEnded, .resultPosted, .songStalled, .clockDiscontinuity, .lineLate,
    .stripRejected, .captureGap, .requestWaiting, .skipVotePassed, .handsetChange, .replyReady, .queueChanged, .roomTimeLow]

theorem Event.eventsInOrder_num (e : Event) : eventsInOrder[e.num]? = some e := by cases e <;> rfl

theorem Event.num_injective : Function.Injective Event.num := by
  intro e f h
  have he := e.eventsInOrder_num
  rw [h, f.eventsInOrder_num] at he
  exact (Option.some.inj he).symm

theorem acknowledge_eq (mask : Set16) (s : State) :
    acknowledge mask s = { s with
      events := s.events &&& ~~~mask, statusGen := s.statusGen + (if s.events &&& mask = 0 then 0 else 1) } := by
  unfold acknowledge
  split
  case isTrue h =>
    have hevents : s.events &&& ~~~mask = s.events := by
      ext n hn
      have hbit := congrArg (fun v : Set16 => v[n]) h
      simp only [BitVec.getElem_and] at hbit
      simp only [BitVec.getElem_and, BitVec.getElem_not]
      cases hs : s.events[n] <;> simp_all
    simp [hevents]
  case isFalse => rfl

theorem exec_ackEvents {s : State} (hup : s.busUp = true) (slot : CmdSlot) (mask : Set16) :
    exec (.ackEvents slot mask) s = .next (afterCommand slot 0x01 .done (acknowledge mask s)) := by
  have hop : ackOp mask (setFirstHalf none s) = (.done, setFirstHalf none (acknowledge mask s)) := by
    simp only [ackOp, acknowledge_eq, setFirstHalf]
  rw [← takeCommand_eq_afterCommand hop]
  exact handOver_of_busUp hup _

/-- Settles O23: a raise in the form of the claims, and an acknowledgement as one equation. -/
theorem eventFlagsRaisedAndAcknowledged : Obligations.EventFlagsRaisedAndAcknowledged := by
  refine ⟨fun e s => ⟨raise_eq e s, ?pending, fun f hf => ?other⟩, fun slot mask s hup => ⟨_, exec_ackEvents hup slot mask, ?cleared, ?rest⟩⟩
  case pending =>
    rw [raise_eq]
    exact signalled_pending e.num_lt s
  case other =>
    rw [raise_eq]
    exact signalled_other (fun h => hf (Event.num_injective h)) s
  case cleared =>
    intro n hn
    rw [acknowledge_eq]
    simp [afterCommand, hn]
  case rest =>
    rw [acknowledge_eq]
    simp [afterCommand]

/-! ### The records of commands (R25, R26, R37) -/

/-- Every row of the command table hands one operation over. -/
theorem exec_commandRow {c : Instr} {slot : CmdSlot} {code : Byte} (h : commandOf c = some (slot, code))
    (hwf : c.wellFormed = true) : ∃ op, OpMoves op ∧ ∀ s, exec c s = handOver (takeCommand slot code op) s := by
  cases c <;> cases h
  case unknown =>
    simp only [Instr.wellFormed, Bool.and_eq_true] at hwf
    exact ⟨unknownOp, unknownOp_moves, fun _ => if_pos hwf.2⟩
  case ackEvents mask => exact ⟨_, ackOp_moves mask, fun _ => rfl⟩
  case songLoad a => exact ⟨_, songLoadOp_moves a, fun _ => rfl⟩
  case songStart => exact ⟨_, songStartOp_moves, fun _ => rfl⟩
  case songSeek position line => exact ⟨_, songSeekOp_moves position line, fun _ => rfl⟩
  case songStop => exact ⟨_, songStopOp_moves, fun _ => rfl⟩
  case scoreClearBoard => exact ⟨_, clearBoardOp_moves, fun _ => rfl⟩
  case queueInsert a => exact ⟨_, queueInsertOp_moves a, fun _ => rfl⟩
  case queueRemove tag => exact ⟨_, queueRemoveOp_moves tag, fun _ => rfl⟩
  case queueMove tag position => exact ⟨_, queueMoveOp_moves tag position, fun _ => rfl⟩
  case queueConfirm tag => exact ⟨_, queueConfirmOp_moves tag, fun _ => rfl⟩
  case queuePin tag setting => exact ⟨_, queuePinOp_moves tag setting, fun _ => rfl⟩
  case handsetRelease id => exact ⟨_, handsetReleaseOp_moves id, fun _ => rfl⟩
  case roomOpen seconds => exact ⟨_, roomOpenOp_moves seconds, fun _ => rfl⟩
  case roomExtend seconds => exact ⟨_, roomExtendOp_moves seconds, fun _ => rfl⟩
  case roomClose => exact ⟨_, roomCloseOp_moves, fun _ => rfl⟩

/-- A command taken is recorded with its outcome, and a refusal changes nothing but the record and COMMAND_REFUSED. -/
theorem takeCommand_recorded {op : State → CmdOutcome × State} (h : OpMoves op) (slot : CmdSlot) (code : Byte) (s : State) :
    ∃ o, (takeCommand slot code op s).intake =
        { firstHalf := none
          last := { valid := true, hostTag := slot.hostTag, code := code, outcome := o, entry := slot.entry, offset := slot.offset } } ∧
      (o ≠ .done → takeCommand slot code op s = afterCommand slot code o s) := by
  refine ⟨(op (setFirstHalf none s)).1, ?_⟩
  rcases h (setFirstHalf none s) with hleft | ⟨hdone, hintake, -⟩
  · have htake := takeCommand_refused slot code op _ s (Prod.ext rfl hleft)
    rw [htake]
    exact ⟨rfl, fun _ => rfl⟩
  · rw [takeCommand_done slot code op s _ (Prod.ext hdone rfl) hintake, hdone]
    exact ⟨rfl, fun hne => absurd rfl hne⟩

/-- Settles O25, from the one operation that each row hands over. -/
theorem commandsRecordAndRefusalsChangeNothing : Obligations.CommandsRecordAndRefusalsChangeNothing := by
  refine ⟨fun slot code s hne hcode hup => ?unknown, fun c slot code s hc hwf hup => ?recorded⟩
  case unknown =>
    have hrow : exec (.unknown slot code) s = handOver (takeCommand slot code unknownOp) s :=
      if_pos ((unknownCode_iff code).2 ⟨hne, hcode⟩)
    rw [hrow, handOver_of_busUp hup, takeCommand_refused slot code unknownOp .unknown s rfl]
  case recorded =>
    obtain ⟨op, hop, hrow⟩ := exec_commandRow hc hwf
    obtain ⟨o, hintake, hrefused⟩ := takeCommand_recorded hop slot code s
    exact ⟨_, o, by rw [hrow, handOver_of_busUp hup], hintake, hrefused⟩

end Sys2Proof.Machine
end

section
/-! The bus path: acceptance and its runs, the handshake, the D port and the completion (section 1.1). -/

namespace Sys2Proof.Machine

/-! ### The handshake (R1, R2, R19, R20) -/

theorem exec_requestAccept {r : BusRequest} (haligned : r.addr.toNat % 8 = 0) (hleast : 1 ≤ r.beats) (hmost : r.beats ≤ 16)
    (s : State) : exec (.requestAccept r) s = .next (presentRequest r s) :=
  if_pos ((requestLegal_iff r).2 ⟨haligned, hleast, hmost⟩)

theorem State.canAccept_iff (s : State) :
    s.canAccept = true ↔ s.busUp = true ∧ s.bus.list.length < 8 ∧ s.bus.awaitsData = false := by
  simp [State.canAccept, and_assoc]

theorem presentRequest_of_canAccept {s : State} (hheld : s.bus.held = none) (h : s.canAccept = true) (r : BusRequest) :
    presentRequest r s = accept r s := by
  rw [presentRequest, if_pos hheld, if_pos h]

theorem BusPath.awaitsData_append (b : BusPath) (list : List Listed) (l : Listed) :
    { b with list := list ++ [l] }.awaitsData = !l.dataTaken := by
  simp [awaitsData]

/-- The U port can accept again, so the request held is accepted. -/
theorem acceptHeld_of_canAccept {s : State} {r : BusRequest} (hheld : s.bus.held = some r) (h : s.canAccept = true) :
    acceptHeld s = accept r (setBus { s.bus with held := none } s) := by
  rw [acceptHeld, hheld]
  exact if_pos h

theorem takeBeat_of_last {s : State} {older : List Listed} {l : Listed} {b : Beat} (d : Data) (en : Enables)
    (hlist : s.bus.list = older ++ [l]) (hdir : l.request.dir = .write) (hb : l.beats[l.taken.length]? = some b) :
    takeBeat d en s = acceptHeld (deliverBeat b d en
      (setBus { s.bus with list := older ++ [{ l with taken := l.taken ++ [(d, en)] }] } s)) := by
  have hshort : l.taken.length < l.beats.length := (List.getElem?_eq_some_iff.1 hb).1
  have hawaits : l.dataTaken = false := by simpa [Listed.dataTaken, hdir] using hshort
  simp [takeBeat, hlist, hawaits, hb, BusPath.takeData]

theorem deliverBeat_of_not_snooped {b : Beat} (h : ∀ dest, b.treatment ≠ .snoop dest) (d : Data) (en : Enables) (s : State) :
    deliverBeat b d en s = s := by
  unfold deliverBeat
  split
  case h_1 dest hd => exact absurd hd (h dest)
  all_goals rfl

/-- What an acceptance leaves on the bus. -/
theorem accept_bus (r : BusRequest) (s : State) : (accept r s).bus = { s.bus with
    list := s.bus.list ++ [newListed s.bus.nextSerial r (acceptBeats s r 0 r.beats s).1], nextSerial := s.bus.nextSerial + 1 } := by
  obtain ⟨hbus, -⟩ := acceptBeats_bus s r r.beats 0 s
  simp [accept, setBus, hbus]

theorem busUp_congr {s t : State} (hcold : t.resetLow = s.resetLow) (hpin : t.busResetLow = s.busResetLow) :
    t.busUp = s.busUp := by
  simp only [State.busUp, hcold, hpin]

/-- Settles O8: the four cases of the handshake, each from the definition's own test. -/
theorem unacceptedRequestIsHeldOrTurnedAway : Obligations.UnacceptedRequestIsHeldOrTurnedAway := by
  intro r s haligned hleast hmost
  have hexec := exec_requestAccept haligned hleast hmost
  refine ⟨fun hup hheld hfull => ?held, fun hturned => ?away, fun l rest hup hheld hlist hfinished hroom hdata => ?leaves,
    fun older l b d en hup hheld hlist hdir hlen hb hroom => ?taken⟩
  case held =>
    have hcannot : ¬ s.canAccept = true := by
      rw [State.canAccept_iff]
      rintro ⟨-, hroom, hdata⟩
      rcases hfull with hfull | hfull
      · omega
      · rw [hdata] at hfull; cases hfull
    rw [hexec, presentRequest, if_pos hheld, if_neg hcannot, if_pos hup]
    rfl
  case away =>
    rw [hexec]
    congr 1
    by_cases hheld : s.bus.held = none
    · have hdown : s.busUp = false := hturned.resolve_right (fun hne => hne hheld)
      have hcannot : ¬ s.canAccept = true := by rw [State.canAccept_iff, hdown]; simp
      rw [presentRequest, if_pos hheld, if_neg hcannot, if_neg (by simp [hdown])]
    · exact if_neg hheld
  case leaves =>
    have hcan : ∀ held, (setBus { s.bus with list := rest, held := held, uPort := some l.completion } s).canAccept = true :=
      fun held => (State.canAccept_iff _).2 ⟨hup, hroom, hdata⟩
    have hleave : leave s = accept r (setBus { s.bus with list := rest, held := none, uPort := some l.completion } s) := by
      simp only [leave, hlist, hfinished, if_true]
      exact acceptHeld_of_canAccept hheld (hcan _)
    rw [hexec]
    exact congrArg Host.Outcome.next (hleave.trans (presentRequest_of_canAccept rfl (hcan none) r).symm)
  case taken =>
    let l' : Listed := { l with taken := l.taken ++ [(d, en)] }
    have hdone : l'.dataTaken = true := by simp [l', Listed.dataTaken, hdir, hlen]
    have hcan : ∀ t : State, t.busUp = s.busUp → t.bus.list = older ++ [l'] → t.canAccept = true := by
      intro t htup htlist
      refine (State.canAccept_iff _).2 ⟨htup.trans hup, by rw [htlist]; simp; omega, ?_⟩
      rw [show t.bus = { t.bus with list := older ++ [l'] } by rw [← htlist], BusPath.awaitsData_append, hdone]
      rfl
    have hexecTake : exec (.writeBeatDataTaken d en) s = .next (takeBeat d en s) := rfl
    rw [hexecTake, takeBeat_of_last d en hlist hdir hb]
    refine ⟨fun hsnoop => ?plain, ?snooped⟩
    case plain =>
      have hpresent := presentRequest_of_canAccept (s := setBus { s.bus with list := older ++ [l'], held := none } s) rfl
        (hcan _ rfl rfl) r
      have haccept := acceptHeld_of_canAccept (s := setBus { s.bus with list := older ++ [l'] } s) hheld (hcan _ rfl rfl)
      rw [deliverBeat_of_not_snooped hsnoop, hexec]
      exact congrArg Host.Outcome.next (haccept.trans hpresent.symm)
    case snooped =>
      obtain ⟨-, hbus, hcold, hpin⟩ := deliverBeat_inner b d en (setBus { s.bus with list := older ++ [l'] } s)
      generalize deliverBeat b d en (setBus { s.bus with list := older ++ [l'] } s) = u at hbus hcold hpin
      have hucan := hcan u (busUp_congr hcold hpin) (by rw [hbus]; rfl)
      rw [acceptHeld_of_canAccept (r := r) (by rw [hbus]; exact hheld) hucan]
      let v := setBus { u.bus with held := none } u
      refine ⟨accept r v, newListed v.bus.nextSerial r (acceptBeats v r 0 r.beats v).1, rfl, rfl, ?_, rfl,
        acceptBeats_length v r r.beats 0 v, ?_⟩
      · simp [newListed, v, setBus, hbus]
      · rw [accept_bus]
        simp [v, setBus, hbus, l']

/-! ### Runs (R2) -/

/-- The runs of a list hold, from beat `lo` on, exactly the beats that `reaches` names; each is a whole stretch of them, and
follows on another only at address 0. -/
structure CoversRuns (reaches : Nat → Prop) (addr : Nat → Addr) (lo : Nat) (runs : List Run) : Prop where
  covered : ∀ j, lo ≤ j → (reaches j ↔ ∃ q ∈ runs, q.first ≤ j ∧ j < q.first + q.count)
  above : ∀ q ∈ runs, lo ≤ q.first
  whole : ∀ q ∈ runs, 1 ≤ q.count ∧ q.status = .waiting ∧ ∀ j, q.first < j → j < q.first + q.count → addr j ≠ 0
  ordered : runs.Pairwise (fun q p => q.first + q.count ≤ p.first)
  split : ∀ q ∈ runs, ∀ p ∈ runs, q.first + q.count = p.first → addr p.first = 0

theorem CoversRuns.nil {reaches : Nat → Prop} {addr : Nat → Addr} {lo : Nat} (h : ∀ j, lo ≤ j → ¬ reaches j) :
    CoversRuns reaches addr lo [] :=
  ⟨fun j hj => by simpa using h j hj, nofun, nofun, .nil, nofun⟩

/-- A beat that does not reach memory. -/
theorem CoversRuns.skip {reaches : Nat → Prop} {addr : Nat → Addr} {k : Nat} {runs : List Run}
    (h : CoversRuns reaches addr (k + 1) runs) (hk : ¬ reaches k) : CoversRuns reaches addr k runs := by
  refine ⟨fun j hj => ?_, fun q hq => Nat.le_of_succ_le (h.above q hq), h.whole, h.ordered, h.split⟩
  rcases Nat.eq_or_lt_of_le hj with rfl | hj
  · refine iff_of_false hk ?_
    rintro ⟨q, hq, hle, -⟩
    have := h.above q hq
    omega
  · exact h.covered j hj

/-- A run in front of the runs of the beats that follow it. -/
theorem CoversRuns.cons {reaches : Nat → Prop} {addr : Nat → Addr} {first count : Nat} {runs : List Run}
    (h : CoversRuns reaches addr (first + count) runs) (hcount : 1 ≤ count)
    (hreach : ∀ j, first ≤ j → j < first + count → reaches j)
    (haddr : ∀ j, first < j → j < first + count → addr j ≠ 0) (hnext : reaches (first + count) → addr (first + count) = 0) :
    CoversRuns reaches addr first ({ first := first, count := count, status := .waiting } :: runs) := by
  refine ⟨fun j hj => ?covered, ?above, ?whole, ?ordered, ?split⟩
  case covered =>
    simp only [List.mem_cons, exists_eq_or_imp]
    rcases Nat.lt_or_ge j (first + count) with hin | hout
    · exact iff_of_true (hreach j hj hin) (.inl ⟨hj, hin⟩)
    · rw [h.covered j hout]
      exact ⟨.inr, fun hor => hor.resolve_left fun hin => by omega⟩
  case above =>
    intro q hq
    rcases List.mem_cons.1 hq with rfl | hq
    · exact Nat.le_refl _
    · have := h.above q hq
      omega
  case whole =>
    intro q hq
    rcases List.mem_cons.1 hq with rfl | hq
    · exact ⟨hcount, rfl, haddr⟩
    · exact h.whole q hq
  case ordered => exact List.pairwise_cons.2 ⟨fun q hq => h.above q hq, h.ordered⟩
  case split =>
    intro q hq p hp hqp
    rcases List.mem_cons.1 hq with rfl | hq <;> rcases List.mem_cons.1 hp with rfl | hp
    · change first + count = first at hqp
      omega
    · change first + count = p.first at hqp
      obtain ⟨hp1, -⟩ := h.whole p hp
      rw [← hqp]
      exact hnext ((h.covered _ (Nat.le_refl _)).2 ⟨p, hp, hqp.ge, by omega⟩)
    · change q.first + q.count = first at hqp
      have := h.above q hq
      omega
    · exact h.split q hq p hp hqp

/-- The runs of the beats from beat k on cover them, after a run in progress that ends at beat k. -/
theorem runsFrom_covers (reaches : Nat → Prop) (addr : Nat → Addr) (bs : List Beat) :
    ∀ k, (∀ i b, bs[i]? = some b → b.addr = addr (k + i) ∧ (reaches (k + i) ↔ b.treatment.reachesMemory = true)) →
      (∀ j, k + bs.length ≤ j → ¬ reaches j) →
      CoversRuns reaches addr k (runsFrom k none bs) ∧
      ∀ first count, first + count = k → 1 ≤ count → (∀ j, first ≤ j → j < k → reaches j) →
        (∀ j, first < j → j < k → addr j ≠ 0) → CoversRuns reaches addr first (runsFrom k (some (first, count)) bs) := by
  induction bs with
  | nil =>
    intro k _ hend
    have hnil : CoversRuns reaches addr k [] := .nil hend
    refine ⟨hnil, ?_⟩
    rintro first count rfl hcount hreach haddr
    exact hnil.cons hcount hreach haddr fun h => absurd h (hend _ (Nat.le_refl _))
  | cons b bs ih =>
    intro k hbeats hend
    obtain ⟨hb, hreaches⟩ := hbeats 0 b rfl
    rw [Nat.add_zero] at hb hreaches
    obtain ⟨ihnone, ihsome⟩ := ih (k + 1)
      (fun i x hx => by have := hbeats (i + 1) x hx; rwa [show k + (i + 1) = k + 1 + i by omega] at this)
      (fun j hj => hend j (by rw [List.length_cons]; omega))
    have hstart : reaches k → CoversRuns reaches addr k (runsFrom (k + 1) (some (k, 1)) bs) := fun hk =>
      ihsome k 1 rfl (Nat.le_refl _) (fun j h1 h2 => (show j = k by omega) ▸ hk) (fun j h1 h2 => by omega)
    by_cases hmem : b.treatment.reachesMemory = true
    · have hk := hreaches.2 hmem
      simp only [runsFrom, hmem, if_true]
      refine ⟨hstart hk, ?_⟩
      rintro first count rfl hcount hreach haddr
      split
      case isTrue hzero => exact (hstart hk).cons hcount hreach haddr fun _ => hb ▸ hzero
      case isFalse hne =>
        refine ihsome first (count + 1) (by omega) (by omega) (fun j h1 h2 => ?_) (fun j h1 h2 => ?_)
        · rcases Nat.eq_or_lt_of_le (Nat.le_of_lt_succ h2) with rfl | h2
          · exact hk
          · exact hreach j h1 h2
        · rcases Nat.eq_or_lt_of_le (Nat.le_of_lt_succ h2) with rfl | h2
          · exact hb ▸ hne
          · exact haddr j h1 h2
    · have hk : ¬ reaches k := fun h => hmem (hreaches.1 h)
      simp only [runsFrom, hmem]
      refine ⟨ihnone.skip hk, ?_⟩
      rintro first count rfl hcount hreach haddr
      exact (ihnone.skip hk).cons hcount hreach haddr fun h => absurd h hk

theorem Treatment.reachesMemory_iff (x : Treatment) :
    x.reachesMemory = true ↔ x ≠ .block ∧ x ≠ .absorb ∧ ∀ d, x ≠ .answer d := by
  cases x <;> simp [reachesMemory]

theorem acceptBeats_addr (s0 : State) (r : BusRequest) (n : Nat) :
    ∀ (k : Nat) (s : State) (i : Nat) (b : Beat), (acceptBeats s0 r k n s).1[i]? = some b → b.addr = beatAddr r (k + i) := by
  induction n with
  | zero => exact fun _ _ _ _ h => by simp [acceptBeats] at h
  | succ n ih =>
    intro k s i b h
    cases i with
    | zero => cases h; rfl
    | succ i => rw [ih (k + 1) _ i b h]; congr 1; omega

theorem Acceptable.canAccept {r : BusRequest} {s : State} (h : Acceptable r s) : s.canAccept = true := by
  obtain ⟨-, -, -, hcold, hpin, -, hroom, hdata⟩ := h
  refine (State.canAccept_iff s).2 ⟨by simp [State.busUp, hcold, hpin], hroom, ?_⟩
  unfold BusPath.awaitsData
  split
  case h_2 => rfl
  case h_1 l hl =>
    unfold Listed.dataTaken
    split
    case h_1 => rfl
    case h_2 hdir => simpa using hdata l hl hdir

theorem Acceptable.exec_eq {r : BusRequest} {s : State} (h : Acceptable r s) :
    exec (.requestAccept r) s = .next (accept r s) := by
  have hcan := h.canAccept
  obtain ⟨haligned, hleast, hmost, -, -, hheld, -⟩ := h
  rw [exec_requestAccept haligned hleast hmost, presentRequest_of_canAccept hheld hcan]

/-- Settles O6, from the runs of the accepted beats. -/
theorem runsCoverForwardedBeats : Obligations.RunsCoverForwardedBeats := by
  intro r s h addr
  let beats := (acceptBeats s r 0 r.beats s).1
  let reaches : Nat → Prop := fun k => ∃ b, beats[k]? = some b ∧ b.treatment.reachesMemory = true
  have hbeats : ∀ i b, beats[i]? = some b → b.addr = addr (0 + i) ∧ (reaches (0 + i) ↔ b.treatment.reachesMemory = true) := by
    intro i b hb
    refine ⟨acceptBeats_addr s r r.beats 0 s i b hb, ?_⟩
    rw [Nat.zero_add]
    simp only [reaches, hb, Option.some.injEq, exists_eq_left']
  have hend : ∀ j, 0 + beats.length ≤ j → ¬ reaches j := by
    rintro j hj ⟨b, hb, -⟩
    rw [List.getElem?_eq_none (by omega)] at hb
    cases hb
  obtain ⟨hcovers, -⟩ := runsFrom_covers reaches addr beats 0 hbeats hend
  refine ⟨_, newListed s.bus.nextSerial r beats, h.exec_eq, by rw [accept_bus], rfl, fun k => ?_, hcovers.whole, hcovers.ordered,
    hcovers.split⟩
  refine Iff.trans ?_ (hcovers.covered k (Nat.zero_le k))
  exact exists_congr fun b => and_congr_right fun _ => (Treatment.reachesMemory_iff _).symm

/-! ### The last-blocked record (R8, R11) -/

/-- At most the blocked record is written, and GUARD_BLOCK is raised exactly when `guard` holds. -/
def BlockedOnly (guard : Prop) (s t : State) : Prop :=
  ∃ x, (guard → t = signalled 1 { s with blocked := x }) ∧ (¬ guard → t = { s with blocked := x })

theorem BlockedOnly.refl {guard : Prop} (h : ¬ guard) (s : State) : BlockedOnly guard s s :=
  ⟨s.blocked, fun hg => absurd hg h, fun _ => rfl⟩

theorem BlockedOnly.trans {p q : Prop} {s t u : State} (h : BlockedOnly p s t) (g : BlockedOnly q t u) :
    BlockedOnly (p ∨ q) s u := by
  obtain ⟨x, hraised, hquiet⟩ := h
  obtain ⟨y, graised, gquiet⟩ := g
  refine ⟨y, fun hor => ?_, fun hnor => ?_⟩
  · by_cases hp : p <;> by_cases hq : q
    · rw [graised hq, hraised hp]
      exact signalled_signalled (by decide) { s with blocked := y }
    · rw [gquiet hq, hraised hp]
      rfl
    · rw [graised hq, hquiet hp]
    · exact absurd hor (by simp [hp, hq])
  · rw [gquiet fun hq => hnor (.inr hq), hquiet fun hp => hnor (.inl hp)]

theorem BlockedOnly.iff {p q : Prop} {s t : State} (h : BlockedOnly p s t) (hpq : p ↔ q) : BlockedOnly q s t := by
  rwa [← propext hpq]

theorem acceptBeat_blocked {s0 : State} {r : BusRequest} {a : Addr} {c : BlockCause}
    (h : matchBeat s0.anchorSel s0.anchor r.dir r.tag a = .block c) (s : State) :
    (acceptBeat s0 r a s).2 = blockBeat r a c s := by
  simp only [acceptBeat, h]

theorem acceptBeat_blocked_eq {s0 : State} {r : BusRequest} {a : Addr}
    (h : ∀ c, matchBeat s0.anchorSel s0.anchor r.dir r.tag a ≠ .block c) (s : State) :
    (acceptBeat s0 r a s).2.blocked = s.blocked := by
  unfold acceptBeat
  split
  case h_1 c hc => exact absurd hc (h c)
  case h_2 | h_3 => rfl
  case h_4 w role unit _ =>
    cases r.dir with
    | write => rfl
    | read => cases role <;> simp [readBeat]

theorem blockBeat_blocked (r : BusRequest) (a : Addr) (c : BlockCause) (s : State) :
    (blockBeat r a c s).blocked = { valid := true, addr := a, tag := r.tag, dir := r.dir, cause := c } := by
  simp [blockBeat]

theorem acceptBeat_blockedOnly {s0 : State} {r : BusRequest} {a : Addr} (s : State)
    (h : r.dir = .write ∨ (matchBeat s0.anchorSel s0.anchor r.dir r.tag a).reachesBlock = false) :
    BlockedOnly (matchBeat s0.anchorSel s0.anchor r.dir r.tag a = .block .guard) s (acceptBeat s0 r a s).2 := by
  unfold acceptBeat
  split
  case h_1 c hc =>
    refine ⟨{ valid := true, addr := a, tag := r.tag, dir := r.dir, cause := c }, fun hguard => ?_, fun hother => ?_⟩
    · have hguard : c = .guard := by simpa [hc] using hguard
      simp only [blockBeat, raiseIf_eq, hguard, decide_true, if_true]
      rfl
    · have hother : c ≠ .guard := by simpa [hc] using hother
      simp [blockBeat, raiseIf_eq, hother]
  case h_2 hc | h_3 hc => exact .refl (by simp [hc]) s
  case h_4 w role unit hc =>
    rw [hc] at h ⊢
    cases hdir : r.dir with
    | write => exact .refl (by simp) s
    | read =>
      have hreach : (Match.window w role unit).reachesBlock = false := h.resolve_left (by simp [hdir])
      cases role with
      | scanout | playback => cases hreach
      | _ => exact .refl (by simp) s

/-- The blocked record after `n` beats from beat k on. -/
theorem acceptBeats_blocked (s0 : State) (r : BusRequest) (n : Nat) :
    ∀ (k : Nat) (s : State),
      let decided := fun i => matchBeat s0.anchorSel s0.anchor r.dir r.tag (beatAddr r (k + i))
      ((∀ i, i < n → ∀ c, decided i ≠ .block c) → (acceptBeats s0 r k n s).2.blocked = s.blocked) ∧
      (∀ i c, i < n → decided i = .block c → (∀ j, i < j → j < n → ∀ e, decided j ≠ .block e) →
        (acceptBeats s0 r k n s).2.blocked =
          { valid := true, addr := beatAddr r (k + i), tag := r.tag, dir := r.dir, cause := c }) ∧
      ((∀ i, i < n → r.dir = .write ∨ (decided i).reachesBlock = false) →
        BlockedOnly (∃ i, i < n ∧ decided i = .block .guard) s (acceptBeats s0 r k n s).2) := by
  induction n with
  | zero => exact fun k s => ⟨fun _ => rfl, nofun, fun _ => .refl (by simp) s⟩
  | succ n ih =>
    intro k s decided
    obtain ⟨ihnone, ihlast, ihonly⟩ := ih (k + 1) (acceptBeat s0 r (beatAddr r k) s).2
    have hshift : ∀ i, matchBeat s0.anchorSel s0.anchor r.dir r.tag (beatAddr r (k + 1 + i)) = decided (i + 1) := fun i => by
      rw [show k + 1 + i = k + (i + 1) by omega]
    simp only [hshift] at ihnone ihlast ihonly
    refine ⟨fun hnone => ?none, fun i c hi hc hlater => ?last, fun hblocks => ?only⟩
    case none =>
      have hrest := ihnone fun i hi => hnone (i + 1) (by omega)
      exact hrest.trans (acceptBeat_blocked_eq (hnone 0 (by omega)) s)
    case last =>
      cases i with
      | zero =>
        have hrest := ihnone fun i hi => hlater (i + 1) (by omega) (by omega)
        exact hrest.trans ((congrArg State.blocked (acceptBeat_blocked hc s)).trans (blockBeat_blocked r _ c s))
      | succ i =>
        have hrest := ihlast i c (by omega) hc fun j hij hj => hlater (j + 1) (by omega) (by omega)
        rw [show k + 1 + i = k + (i + 1) by omega] at hrest
        exact hrest
    case only =>
      have hfirst := acceptBeat_blockedOnly s (hblocks 0 (by omega))
      have hrest := ihonly fun i hi => hblocks (i + 1) (by omega)
      refine (hfirst.trans hrest).iff ⟨?_, ?_⟩
      · rintro (hguard | ⟨i, hi, hguard⟩)
        · exact ⟨0, by omega, hguard⟩
        · exact ⟨i + 1, by omega, hguard⟩
      · rintro ⟨i, hi, hguard⟩
        cases i with
        | zero => exact .inl hguard
        | succ i => exact .inr ⟨i, by omega, hguard⟩

/-- Settles O7, beat by beat. -/
theorem acceptRecordsBlockedBeats : Obligations.AcceptRecordsBlockedBeats := by
  intro r s t haligned hleast hmost hup hheld hroom hdata hexec decided
  have hcan := (State.canAccept_iff s).2 ⟨hup, hroom, hdata⟩
  rw [exec_requestAccept haligned hleast hmost, presentRequest_of_canAccept hheld hcan] at hexec
  obtain ⟨rfl⟩ : accept r s = t := by injection hexec
  obtain ⟨hnone, hlast, honly⟩ := acceptBeats_blocked s r r.beats 0 s
  simp only [Nat.zero_add] at hnone hlast honly
  refine ⟨hnone, hlast, fun hblocks => ?_⟩
  obtain ⟨x, hraised, hquiet⟩ := honly hblocks
  have hbus : accept r s = { (acceptBeats s r 0 r.beats s).2 with bus := (accept r s).bus } := rfl
  split
  case isTrue hguard =>
    have h := hraised hguard
    rw [hbus, h]
    rfl
  case isFalse hguard =>
    have h := hquiet hguard
    rw [hbus, h]

/-! ### The D port (R2, R3) -/

theorem findIdx?_first {α : Type} {p : α → Bool} {before : List α} {x : α} (after : List α) (hbefore : ∀ y ∈ before, p y = false)
    (hx : p x = true) : (before ++ x :: after).findIdx? p = some before.length := by
  have hnone : before.findIdx? p = none := List.findIdx?_eq_none_iff.2 hbefore
  simp [List.findIdx?_append, hnone, List.findIdx?_cons, hx]

theorem Listed.nextRun_of_first {l : Listed} {done rest : List Run} {r : Run} (hruns : l.runs = done ++ r :: rest)
    (hdone : ∀ q ∈ done, q.status ≠ .waiting) (hr : r.status = .waiting) : l.nextRun = some done.length := by
  rw [Listed.nextRun, hruns]
  exact findIdx?_first rest (fun q hq => decide_eq_false (hdone q hq)) (decide_eq_true hr)

theorem Listed.nextRun_none {l : Listed} (h : ∀ q ∈ l.runs, q.status ≠ .waiting) : l.nextRun.isSome = false := by
  simpa [Listed.nextRun] using h

theorem nextForward_of_first {before after : List Listed} {l : Listed} {done rest : List Run} {r : Run}
    (hbefore : ∀ x ∈ before, ∀ q ∈ x.runs, q.status ≠ .waiting) (hruns : l.runs = done ++ r :: rest)
    (hdone : ∀ q ∈ done, q.status ≠ .waiting) (hr : r.status = .waiting) :
    nextForward (before ++ l :: after) = some (before.length, done.length, r) := by
  have hnext := Listed.nextRun_of_first hruns hdone hr
  have hfind : (before ++ l :: after).findIdx? (fun x => x.nextRun.isSome) = some before.length :=
    findIdx?_first after (fun x hx => Listed.nextRun_none (hbefore x hx)) (by rw [hnext]; rfl)
  simp [nextForward, hfind, hnext, hruns]

/-- Settles O18: the oldest waiting run is found where the lists say, and its request has the data. -/
theorem oldestRunIsForwarded : Obligations.OldestRunIsForwarded := by
  intro s before after l done rest r hlist hbefore hruns hdone hr hdata
  have hnext := nextForward_of_first (after := after) hbefore hruns hdone hr
  have hready : l.runReady r = true := by
    unfold Listed.runReady
    split
    case h_1 => rfl
    case h_2 hdir => exact decide_eq_true (hdata hdir)
  have hset : (before ++ l :: after).set before.length (l.setRun done.length .forwarded) =
      before ++ { l with runs := done ++ { r with status := .forwarded } :: rest } :: after := by
    simp [Listed.setRun_eq l done rest r .forwarded hruns]
  have hforward : forwardRun s = setBus { s.bus with
      list := before ++ { l with runs := done ++ { r with status := .forwarded } :: rest } :: after
      dPort := s.bus.dPort ++ [l.toDPort done.length r] } s := by
    simp only [forwardRun, hlist, hnext, List.getElem?_append_right (Nat.le_refl _), Nat.sub_self, List.getElem?_cons_zero,
      hready, if_true, hset]
  have hport : l.toDPort done.length r =
      { owner := some (l.serial, done.length), dir := l.request.dir, tag := l.request.tag
        addr := l.request.addr + BitVec.ofNat 32 (8 * r.first), count := r.count
        data := if l.request.dir = .read then [] else (l.taken.drop r.first).take r.count } := by
    cases hdir : l.request.dir <;> simp [Listed.toDPort, hdir, beatAddr]
  rw [← hport]
  exact congrArg Host.Outcome.next hforward

theorem DPortRun.dataBeats_eq (d : DPortRun) : d.dataBeats = if d.dir = .read then d.count else 0 := by
  unfold dataBeats
  split
  case h_1 h => rw [if_pos h]
  case h_2 h => rw [if_neg (by simp [h])]

theorem completeRun_of_outstanding {n : Nat} {s : State} {p : DPortRun} {data : List Data} (hp : s.bus.dPort[n]? = some p)
    (hlen : data.length = if p.dir = .read then p.count else 0) (fault : Bool) :
    completeRun n fault data s = setBus ({ s.bus with dPort := s.bus.dPort.eraseIdx n }.recordRun p.owner fault data) s := by
  simp only [completeRun, hp]
  rw [if_pos (hlen.trans p.dataBeats_eq.symm)]

/-- Settles O19, by the owner that the D port's record names. -/
theorem runCompletionIsRecorded : Obligations.RunCompletionIsRecorded := by
  intro n fault data s
  refine ⟨?outstanding, fun hmissing => ?turned⟩
  case outstanding =>
    intro p hp hlen gone
    have hcomplete := completeRun_of_outstanding hp hlen fault
    refine ⟨fun howner => ?gone, fun serial k before l after done r rest howner hlist hothers hserial hruns hdone => ?recorded,
      fun serial k howner hothers => ?abandoned⟩
    case gone =>
      rw [howner] at hcomplete
      exact congrArg Host.Outcome.next hcomplete
    case recorded =>
      subst hdone
      rw [howner] at hcomplete
      simp only [BusPath.recordRun, hlist, map_serial_one before after l serial _ hothers hserial,
        Listed.setRun_eq l done rest r _ hruns] at hcomplete
      exact congrArg Host.Outcome.next hcomplete
    case abandoned =>
      rw [howner] at hcomplete
      simp only [BusPath.recordRun, map_serial_none s.bus.list serial _ hothers] at hcomplete
      exact congrArg Host.Outcome.next hcomplete
  case turned =>
    have hsame : completeRun n fault data s = s := by
      unfold completeRun
      split
      case h_1 => rfl
      case h_2 p hp => rw [if_neg (by rw [p.dataBeats_eq]; exact hmissing p hp)]
    exact congrArg Host.Outcome.next hsame

/-! ### The completion (R2, R3, R10) -/

theorem Run.faulted_iff (r : Run) : r.faulted = true ↔ ∃ y, r.status = .completed true y := by
  unfold faulted
  split
  case h_1 f y h => simp [h]
  case h_2 h | h_3 h => simp [h]

theorem Listed.fault_iff (l : Listed) :
    l.fault = true ↔ (∃ b ∈ l.beats, b.treatment = .block) ∨ ∃ r ∈ l.runs, ∃ y, r.status = .completed true y := by
  simp [Listed.fault, Run.faulted_iff]

theorem Listed.completion_write {l : Listed} (h : l.request.dir = .write) : l.completion.data = [] := by
  simp [Listed.completion, h]

theorem Listed.completion_read {l : Listed} (h : l.request.dir = .read) :
    l.completion.data.length = l.beats.length ∧
      ∀ (k : Nat) (b : Beat), l.beats[k]? = some b → l.completion.data[k]? = some (l.beatData k b.treatment) := by
  constructor
  · simp [Listed.completion, h]
  · intro k b hb
    simp [Listed.completion, h, hb]

theorem leave_of_finished {s : State} {l : Listed} {rest : List Listed} (hlist : s.bus.list = l :: rest)
    (hheld : s.bus.held = none) (hfinished : l.finished = true) :
    leave s = setBus { s.bus with list := rest, uPort := some l.completion } s := by
  simp only [leave, hlist, hfinished, if_true]
  exact acceptHeld_none hheld

/-- Settles O20: the completion as listed, its data beat by beat. -/
theorem oldestRequestCompletes : Obligations.OldestRequestCompletes := by
  intro s l rest hlist hheld hruns htaken
  refine ⟨l.completion, ?leaves, rfl, l.fault_iff, Listed.completion_write, fun hread => ?data⟩
  case leaves => exact congrArg Host.Outcome.next (leave_of_finished hlist hheld (l.finished_of hruns htaken))
  case data =>
    obtain ⟨hlength, hbeats⟩ := Listed.completion_read hread
    refine ⟨hlength, fun k b hb => ?_⟩
    rw [hbeats k b hb]
    refine ⟨fun y hy => by rw [hy]; rfl, ?_, fun done r more f y m hsplit hr hdone hfirst hm => ?_⟩
    · rintro (hblock | habsorb)
      · rw [hblock]; rfl
      · rw [habsorb]; rfl
    · have hmemory := l.memoryData_eq done more r f y m k hsplit hr hdone hfirst hm
      refine ⟨?_, fun p q htransform => ?_⟩
      · rintro (hpass | ⟨dest, hsnoop⟩)
        · rw [hpass]; exact congrArg some hmemory
        · rw [hsnoop]; exact congrArg some hmemory
      · rw [htransform, Listed.beatData, hmemory]
        rfl

end Sys2Proof.Machine
end

section
/-! The Handset Table: counts, the skip test across several changes, the timers and HANDSET_RELEASE (section 8.3). -/

namespace Sys2Proof.Machine

/-! ### The counts (R148) -/

theorem countP_setAt {α : Type} {n : Nat} (p : α → Bool) (v : Vector α n) (i : Fin n) (x : α) :
    (setAt v i x).toList.countP p + (if p v[i] then 1 else 0) = v.toList.countP p + (if p x then 1 else 0) := by
  have hi : i.val < v.toList.length := by simp
  have hset : (setAt v i x).toList = v.toList.set i.val x := by simp [setAt, Vector.toList_set]
  have hget : v.toList[i.val] = v[i] := by simp
  rw [hset, List.countP_set hi, hget]
  split
  case isTrue hp =>
    have hpos : 0 < v.toList.countP p := List.countP_pos_iff.2 ⟨v[i], by simp, hp⟩
    omega
  case isFalse => omega

theorem Handsets.votesPass_iff (x : Handsets) : x.votesPass = true ↔ (max 1 x.activeCount + 1) / 2 ≤ x.voteCount :=
  decide_eq_true_iff

theorem skipPasses_iff (t : State) : SkipPasses t ↔ t.handsets.votesPass = true := by
  have hpresent : (fun r : Handset => decide (r.state = .active ∨ r.state = .held)) = fun r => r.state.present := by
    funext r
    cases r.state <;> rfl
  rw [Handsets.votesPass_iff, SkipPasses, hpresent]
  exact Iff.rfl

/-- Fewer present handsets and no fewer votes never fail the skip test. -/
theorem SkipPasses.mono {t u : State} (h : SkipPasses t) (hactive : u.handsets.activeCount ≤ t.handsets.activeCount)
    (hvotes : t.handsets.voteCount ≤ u.handsets.voteCount) : SkipPasses u := by
  rw [skipPasses_iff, Handsets.votesPass_iff] at h ⊢
  omega

theorem SkipPasses.congr {t u : State} (h : SkipPasses t) (hrecords : u.handsets.records = t.handsets.records) : SkipPasses u := by
  unfold SkipPasses at h ⊢
  rwa [hrecords]

/-! ### The skip test (R148) -/

theorem votable_iff (x : SongState) : x.votable = true ↔ x = .armed ∨ x = .running ∨ x = .stalled := by
  cases x <;> simp [SongState.votable]

/-- No test ran, and the flag is as it was. -/
theorem SkipTested.idle {s t : State} {ran : Prop} (hflag : t.handsets.votePassed = s.handsets.votePassed) (hran : ¬ ran) :
    SkipTested s t ran := by
  refine ⟨by simp [hflag, hran], fun hs ht => ?_⟩
  rw [hflag, hs] at ht
  cases ht

theorem SkipTested.iff {s t : State} {p q : Prop} (h : SkipTested s t p) (hpq : p ↔ q) : SkipTested s t q := by
  rwa [← propext hpq]

/-- Events, flag and records of the end alone decide it. -/
theorem SkipTested.congr {s t u : State} {ran : Prop} (h : SkipTested s t ran) (hhandsets : u.handsets = t.handsets)
    (hevents : t.events.getLsbD 11 = true → u.events.getLsbD 11 = true) : SkipTested s u ran := by
  obtain ⟨hflag, hevent⟩ := h
  refine ⟨?_, fun hs hu => hevents (hevent hs (by rwa [← hhandsets]))⟩
  unfold SkipPasses
  rw [hhandsets]
  exact hflag

theorem SkipTested.congr_passes {s t u : State} {ran : Prop} (h : SkipTested s t ran)
    (hflag : u.handsets.votePassed = t.handsets.votePassed) (hpasses : SkipPasses u ↔ SkipPasses t)
    (hevents : t.events.getLsbD 11 = true → u.events.getLsbD 11 = true) : SkipTested s u ran := by
  obtain ⟨hruled, hevent⟩ := h
  refine ⟨?_, fun hs hu => hevents (hevent hs (by rwa [← hflag]))⟩
  rw [hflag, hpasses]
  exact hruled

/-- The same of the state it starts from. -/
theorem SkipTested.source {s s' t : State} {ran : Prop} (h : SkipTested s t ran)
    (hflag : s'.handsets.votePassed = s.handsets.votePassed) (hclock : s'.clock = s.clock) : SkipTested s' t ran := by
  unfold SkipTested at h ⊢
  rwa [hflag, hclock]

theorem skipTest_tested {s t : State} (hclock : t.clock = s.clock) (hflag : t.handsets.votePassed = s.handsets.votePassed) :
    SkipTested s (skipTest t) True := by
  have hpasses : SkipPasses (skipTest t) ↔ t.handsets.votesPass = true := by
    rw [← skipPasses_iff]
    exact ⟨fun h => h.congr (skipTest_records t).symm, fun h => h.congr (skipTest_records t)⟩
  unfold SkipTested
  rw [hpasses, ← votable_iff, ← hclock, ← hflag, true_and]
  unfold skipTest
  split
  case isTrue hruns =>
    simp only [Bool.and_eq_true, Bool.not_eq_true'] at hruns
    obtain ⟨⟨hvotable, -⟩, hpass⟩ := hruns
    rw [raise_eq]
    exact ⟨iff_of_true rfl (.inr ⟨hvotable, hpass⟩), fun _ _ => signalled_pending (by decide) _⟩
  case isFalse hnot =>
    refine ⟨⟨.inl, fun hor => hor.elim id fun ⟨hvotable, hpass⟩ => ?_⟩, fun hfalse htrue => ?_⟩
    · by_contra hflag
      exact hnot (by simp [hvotable, hpass, hflag])
    · rw [hfalse] at htrue; cases htrue

/-- Two changes in a row: the test of the second decides, where the first's passing outlives it. -/
theorem SkipTested.trans {s t u : State} {p q : Prop} (h : SkipTested s t p) (g : SkipTested t u q) (hclock : t.clock = s.clock)
    (hevents : t.events.getLsbD 11 = true → u.events.getLsbD 11 = true) (hkeeps : SkipPasses t → SkipPasses u)
    (hback : q ∨ (SkipPasses u → SkipPasses t)) : SkipTested s u (p ∨ q) := by
  obtain ⟨hflag, hevent⟩ := h
  obtain ⟨gflag, gevent⟩ := g
  rw [hclock] at gflag
  refine ⟨?_, fun hs hu => ?_⟩
  · rw [gflag, hflag]
    constructor
    · rintro ((hs | ⟨hp, hvotable, hpass⟩) | ⟨hq, hvotable, hpass⟩)
      · exact .inl hs
      · exact .inr ⟨.inl hp, hvotable, hkeeps hpass⟩
      · exact .inr ⟨.inr hq, hvotable, hpass⟩
    · rintro (hs | ⟨hp | hq, hvotable, hpass⟩)
      · exact .inl (.inl hs)
      · exact hback.elim (fun hq => .inr ⟨hq, hvotable, hpass⟩) fun hback => .inl (.inr ⟨hp, hvotable, hback hpass⟩)
      · exact .inr ⟨hq, hvotable, hpass⟩
  · cases ht : t.handsets.votePassed with
    | true => exact hevents (hevent hs ht)
    | false => exact gevent ht hu

theorem SkipTested.keeps_flag {s t : State} {ran : Prop} (h : SkipTested s t ran) (hs : s.handsets.votePassed = true) :
    t.handsets.votePassed = true := h.1.2 (.inl hs)

/-! ### A record replaced (R138, R139, R142) -/

theorem activeCount_setAt {x y : Handsets} {h : Fin 16} {r : Handset} (hrecords : y.records = setAt x.records h r) :
    y.activeCount + (if (x.records[h]).state.present then 1 else 0) = x.activeCount + (if r.state.present then 1 else 0) := by
  rw [Handsets.activeCount, hrecords]
  exact countP_setAt (fun r : Handset => r.state.present) x.records h r

theorem voteCount_setAt {x y : Handsets} {h : Fin 16} {r : Handset} (hrecords : y.records = setAt x.records h r) :
    y.voteCount + (if (x.records[h]).vote then 1 else 0) = x.voteCount + (if r.vote then 1 else 0) := by
  rw [Handsets.voteCount, hrecords]
  exact countP_setAt (fun r : Handset => r.vote) x.records h r

/-- A record that neither joins the present handsets nor loses its vote leaves a passing test passing. -/
theorem SkipPasses.setAt {s t : State} {h : Fin 16} {r : Handset} (hp : SkipPasses s)
    (hrecords : t.handsets.records = Machine.setAt s.handsets.records h r)
    (hpresent : r.state.present = true → (s.handsets.records[h]).state.present = true)
    (hvote : (s.handsets.records[h]).vote = true → r.vote = true) : SkipPasses t := by
  have hactive := activeCount_setAt (x := s.handsets) (y := t.handsets) hrecords
  have hvotes := voteCount_setAt (x := s.handsets) (y := t.handsets) hrecords
  refine hp.mono ?_ ?_
  · by_cases hr : r.state.present = true
    · rw [if_pos hr, if_pos (hpresent hr)] at hactive; omega
    · rw [if_neg hr] at hactive; omega
  · by_cases hs : (s.handsets.records[h]).vote = true
    · rw [if_pos hs, if_pos (hvote hs)] at hvotes; omega
    · rw [if_neg hs] at hvotes; omega

/-- The same backwards. -/
theorem SkipPasses.of_setAt {s t : State} {h : Fin 16} {r : Handset} (hp : SkipPasses t)
    (hrecords : t.handsets.records = Machine.setAt s.handsets.records h r)
    (hpresent : (s.handsets.records[h]).state.present = true → r.state.present = true)
    (hvote : r.vote = true → (s.handsets.records[h]).vote = true) : SkipPasses s := by
  have hrow : t.handsets.records[h] = r := by rw [hrecords, setAt_self]
  refine hp.setAt (h := h) (r := s.handsets.records[h]) ?_ (by rwa [hrow]) (by rwa [hrow])
  rw [hrecords, setAt_setAt, setAt_get_self]

theorem raiseIf_handsets (c : Bool) (e : Event) (s : State) : (raiseIf c e s).handsets = s.handsets := by
  rw [raiseIf_eq]
  split <;> rfl

theorem changeHandset_eq (h : Fin 16) (x : Handset) (s : State) :
    changeHandset h x s = { s with
      handsets := (changeHandset h x s).handsets, events := (changeHandset h x s).events
      statusGen := (changeHandset h x s).statusGen } := by
  simp only [changeHandset, skipTest, raise_eq, raiseIf_eq]
  split_ifs <;> rfl

theorem changeHandset_other {h k : Fin 16} (hk : k ≠ h) (x : Handset) (s : State) :
    (changeHandset h x s).handsets.records[k] = s.handsets.records[k] := by
  rw [changeHandset_record, setAt_other _ _ _ _ hk]

theorem changeHandset_tested (h : Fin 16) (x : Handset) (s : State) :
    SkipTested s (changeHandset h x s) ((s.handsets.records[h]).state.present ≠ x.state.present) := by
  have hcount := activeCount_setAt (putHandset_record h x s)
  simp only [changeHandset, raiseIf_handsets]
  split
  case isTrue hsame =>
    refine .idle (by rw [raiseIf_handsets]; rfl) ?_
    cases hold : (s.handsets.records[h]).state.present <;> cases hnew : x.state.present <;> simp_all
  case isFalse hmoved =>
    refine (skipTest_tested (by simp) (by rw [raiseIf_handsets]; rfl)).iff (iff_of_true trivial fun hsame => hmoved ?_)
    rw [hsame] at hcount
    omega

/-! ### Timers and release (R138, R140, R141) -/

/-- A record replaced by a change that alters whether the handset is present: all that it does. -/
theorem changeHandset_moved (h : Fin 16) {x : Handset} {s : State}
    (hpresent : (s.handsets.records[h]).state.present ≠ x.state.present) :
    let t := changeHandset h x s
    t.handsets.records[h] = x ∧ (∀ k : Fin 16, k ≠ h → t.handsets.records[k] = s.handsets.records[k]) ∧
      t.handsets.gen = s.handsets.gen + BitVec.ofNat 32 (countedChanges s.handsets.records[h] x) ∧ SkipTested s t True ∧
      Raised s t 0 (fun n => n = 12 ∧ True ∨ n = 11 ∧ s.handsets.votePassed = false ∧ t.handsets.votePassed = true) := by
  have hstate : (s.handsets.records[h]).state ≠ x.state := fun h => hpresent (by rw [h])
  refine ⟨?_, fun k hk => changeHandset_other hk x s, changeHandset_gen h x s,
    (changeHandset_tested h x s).iff (iff_true_intro hpresent), ((Raised.refl s).changeHandset h x).iff fun n => ?_⟩
  · rw [changeHandset_record, setAt_self]
  · simp only [false_or, ne_eq, hstate, not_false_eq_true]

theorem expirePresence_of_due {s : State} {h : Fin 16} (hdue : presenceDue s h = true) :
    expirePresence h s = changeHandset h (s.handsets.records[h]).lapse s := if_pos hdue

theorem release_changes {r : Handset} (hbarred : r.state = .barred) (now : Count32) :
    countedChanges r (r.release now) = if r.errors = 0 then 1 else 2 := by
  simp only [countedChanges, Handset.release, hbarred]
  split_ifs <;> simp_all

theorem handsetReleaseOp_of_high {id : Byte} (h : 15 < id.toNat) (s : State) :
    handsetReleaseOp id s = (.refusedArgument, s) := if_pos h

theorem handsetReleaseOp_of_low (h : Fin 16) (s : State) : handsetReleaseOp (BitVec.ofNat 8 h.val) s =
    if (s.handsets.records[h]).state = .barred then
      (.done, changeHandset h ((s.handsets.records[h]).release s.timebase) s) else (.refusedState, s) := by
  have hval : (BitVec.ofNat 8 h.val).toNat = h.val := by simp; omega
  have hlow : ¬ 15 < (BitVec.ofNat 8 h.val).toNat := by omega
  have hfin : Fin.ofNat 16 (BitVec.ofNat 8 h.val).toNat = h := by
    rw [hval]
    exact Fin.ext (Nat.mod_eq_of_lt h.isLt)
  simp only [handsetReleaseOp, hlow, if_false, hfin]

theorem lapse_changes {r : Handset} (hpresent : r.state.present = true) : countedChanges r r.lapse = 1 := by
  have hne : r.state ≠ .absent := fun h => by rw [h] at hpresent; cases hpresent
  simp [countedChanges, Handset.lapse, hne]

theorem expireQuiet_of_due {s : State} {h : Fin 16} (hdue : quietDue s h = true) :
    expireQuiet h s =
      if 128 ≤ (s.handsets.records[h]).quietCount + 1 then changeHandset h ((s.handsets.records[h]).release s.timebase) s
      else putHandset h { s.handsets.records[h] with
        quietCount := (s.handsets.records[h]).quietCount + 1, quiet := some s.timebase } s := if_pos hdue

/-- A release, as the row of a quiet interval or of HANDSET_RELEASE makes it. -/
theorem release_moved (h : Fin 16) {s : State} (hbarred : (s.handsets.records[h]).state = .barred) :
    let t := changeHandset h ((s.handsets.records[h]).release s.timebase) s
    t.handsets.records[h] = (s.handsets.records[h]).release s.timebase ∧
      (∀ k : Fin 16, k ≠ h → t.handsets.records[k] = s.handsets.records[k]) ∧
      t.handsets.gen = s.handsets.gen + BitVec.ofNat 32 (if (s.handsets.records[h]).errors = 0 then 1 else 2) ∧
      SkipTested s t True ∧
      Raised s t 0 (fun n => n = 12 ∧ True ∨ n = 11 ∧ s.handsets.votePassed = false ∧ t.handsets.votePassed = true) := by
  rw [← release_changes hbarred s.timebase]
  refine changeHandset_moved h fun hsame => ?_
  rw [hbarred] at hsame
  exact absurd hsame Bool.false_ne_true

theorem lapse_moved (h : Fin 16) {s : State} (hpresent : (s.handsets.records[h]).state.present = true) :
    let t := changeHandset h (s.handsets.records[h]).lapse s
    t.handsets.records[h] = (s.handsets.records[h]).lapse ∧
      (∀ k : Fin 16, k ≠ h → t.handsets.records[k] = s.handsets.records[k]) ∧
      t.handsets.gen = s.handsets.gen + BitVec.ofNat 32 1 ∧ SkipTested s t True ∧
      Raised s t 0 (fun n => n = 12 ∧ True ∨ n = 11 ∧ s.handsets.votePassed = false ∧ t.handsets.votePassed = true) := by
  rw [← lapse_changes hpresent]
  refine changeHandset_moved h fun hsame => ?_
  rw [hpresent] at hsame
  exact absurd hsame.symm Bool.false_ne_true

/-- Settles O51: each row is the change of one record, or is refused. -/
theorem handsetTimersAndRelease : Obligations.HandsetTimersAndRelease := by
  intro h s r freed freedCount becomes
  have hreleases : r.state = .barred → becomes (changeHandset h freed s) freed freedCount 0 True := fun hbarred => by
    obtain ⟨hself, hothers, hgen, htested, hraised⟩ := release_moved h hbarred
    exact ⟨hself, hothers, hgen, htested, hraised, by rw [changeHandset_eq]⟩
  refine ⟨fun start hstart hpresent hlong => ?presence, fun start hstart hbarred hlong => ?quiet,
    fun slot hup hbarred => ?release, fun slot hup hother => ?state, fun slot id hup hid => ?argument⟩
  case presence =>
    have hdue : presenceDue s h = true := (presenceDue_iff s h).2 ⟨hpresent, start, hstart, hlong⟩
    obtain ⟨hself, hothers, hgen, htested, hraised⟩ := lapse_moved h ((HandsetState.present_iff _).2 hpresent)
    exact ⟨changeHandset h r.lapse s, congrArg Host.Outcome.next (expirePresence_of_due hdue), by simp, hself, hothers, hgen,
      htested, hraised, by rw [changeHandset_eq]⟩
  case quiet =>
    have hdue : quietDue s h = true := (quietDue_iff s h).2 ⟨hbarred, start, hstart, hlong⟩
    have hquiet := expireQuiet_of_due hdue
    rcases Nat.lt_or_ge r.quietCount 127 with hcount | hcount
    · rw [if_neg (by change ¬ 128 ≤ r.quietCount + 1; omega)] at hquiet
      refine ⟨_, congrArg Host.Outcome.next hquiet, by simp, fun _ => ?_, fun hfull => absurd hfull (by omega)⟩
      refine ⟨?_, fun k hk => ?_, ?_, .idle rfl (by simp), ((Raised.refl s).putHandset h _).iff fun n => ?_, rfl⟩
      · rw [putHandset_record, setAt_self]
      · rw [putHandset_record, setAt_other _ _ _ _ hk]
      · simp [putHandset, bumpHandsets, Handset.changes, changed]
      · change False ↔ n = 12 ∧ False ∨ n = 11 ∧ s.handsets.votePassed = false ∧ s.handsets.votePassed = true
        cases s.handsets.votePassed <;> simp
    · rw [if_pos (by change 128 ≤ r.quietCount + 1; omega)] at hquiet
      exact ⟨_, congrArg Host.Outcome.next hquiet, by simp, fun hfew => absurd hfew (by omega), fun _ => hreleases hbarred⟩
  case release =>
    let u := changeHandset h freed (setFirstHalf none s)
    have hop : handsetReleaseOp (BitVec.ofNat 8 h.val) (setFirstHalf none s) = (.done, u) :=
      (handsetReleaseOp_of_low h _).trans (if_pos hbarred)
    have htake := takeCommand_done slot 0x40 _ s u hop (by simp [u])
    obtain ⟨hself, hothers, hgen, htested, hraised⟩ := release_moved h (s := setFirstHalf none s) hbarred
    refine ⟨_, (handOver_of_busUp hup _).trans (congrArg Host.Outcome.next htake), rfl, hself, hothers, hgen, ?_,
      hraised.done slot 0x40, ?_⟩
    · exact (htested.congr (u := { u with intake := doneRecord slot 0x40, statusGen := u.statusGen + 1 }) rfl id).source rfl rfl
    · simp only [u]
      rw [changeHandset_eq]
      rfl
  case state =>
    have hop : handsetReleaseOp (BitVec.ofNat 8 h.val) (setFirstHalf none s) = (.refusedState, setFirstHalf none s) :=
      (handsetReleaseOp_of_low h _).trans (if_neg hother)
    exact (handOver_of_busUp hup _).trans (congrArg Host.Outcome.next (takeCommand_refused slot 0x40 _ _ s hop))
  case argument =>
    exact (handOver_of_busUp hup _).trans
      (congrArg Host.Outcome.next (takeCommand_refused slot 0x40 _ _ s (handsetReleaseOp_of_high hid _)))

end Sys2Proof.Machine
end

section
/-! Check-valid packets: the arrival, what step 8 does, and the end of a packet (sections 8.2, 8.3). -/

namespace Sys2Proof.Machine

/-! ### Replies (R142) -/

theorem writeReply_eq (h : Fin 16) (seq : Byte) (a : Answer) (s : State) :
    writeReply h seq a s = { s with
      handsets := (writeReply h seq a s).handsets, events := (writeReply h seq a s).events
      statusGen := (writeReply h seq a s).statusGen } := by
  simp only [writeReply, raise_eq]
  rfl

/-- The record of a handset after a reply. -/
def Handset.replied (r : Handset) (seq : Byte) (a : Answer) (pending : Nat) : Handset :=
  { r with
    reply := { sequence := seq, outcome := a.outcome, tag := a.tag, position := a.position, pendingCount := pending }
    replyCount := r.replyCount + 1 }

theorem writeReply_records (h : Fin 16) (seq : Byte) (a : Answer) (s : State) :
    (writeReply h seq a s).handsets.records =
      setAt s.handsets.records h ((s.handsets.records[h]).replied seq a (s.queue.pendingCount h)) := by
  rw [writeReply, raise_eq]
  rfl

theorem writeReply_flag (h : Fin 16) (seq : Byte) (a : Answer) (s : State) :
    (writeReply h seq a s).handsets.votePassed = s.handsets.votePassed := by
  rw [writeReply, raise_eq]
  rfl

theorem concludePacket_eq (h : Fin 16) (seq : Byte) (a : Answer) (s : State) :
    concludePacket h seq a s = { s with
      handsets := (concludePacket h seq a s).handsets, events := (concludePacket h seq a s).events
      statusGen := (concludePacket h seq a s).statusGen } := by
  simp only [concludePacket]
  rw [changeHandset_eq, writeReply_eq]
  rfl

/-- The record of a handset at the end of a packet, from the state that step 8 left. -/
def Handset.concluded (r : Handset) (seq : Byte) (a : Answer) (pending : Nat) (now : Count32) : Handset :=
  Handset.follow (Handset.replied { r with lastSequence := some seq } seq a pending) (errorsRuled a.outcome r.errors) now

theorem errorsAfter_ruled (o : ReplyOutcome) (e : Nat) : errorsAfter o e = errorsRuled o e := by cases o <;> rfl

theorem concludePacket_records (h : Fin 16) (seq : Byte) (a : Answer) (s : State) :
    (concludePacket h seq a s).handsets.records =
      setAt s.handsets.records h ((s.handsets.records[h]).concluded seq a (s.queue.pendingCount h) s.timebase) := by
  simp only [concludePacket, changeHandset_record, writeReply_records, putHandset_record, setAt_setAt, setAt_self, errorsAfter_ruled]
  simp only [putHandset, bumpHandsets, writeReply_frame, Handset.replied]
  rfl

/-- The counter and the state that follows it (R139). -/
theorem follow_ruled {r : Handset} (h : r.state = .active ∨ r.state = .held) (e : Nat) (now : Count32) :
    (r.follow e now).errors = min e 256 ∧
      (r.follow e now).state = (if 256 ≤ e then .barred else if 128 ≤ e then .held else .active) ∧
      (e < 256 → (r.follow e now).presence = r.presence ∧ (r.follow e now).quiet = r.quiet ∧
        (r.follow e now).quietCount = r.quietCount) ∧
      (256 ≤ e → (r.follow e now).presence = none ∧ (r.follow e now).quiet = some now ∧ (r.follow e now).quietCount = 0) ∧
      (r.follow e now).reply = r.reply ∧ (r.follow e now).replyCount = r.replyCount := by
  unfold Handset.follow
  rcases Nat.lt_or_ge e 256 with hlow | hhigh
  · have hnot : ¬ 256 ≤ e := by omega
    rw [Nat.min_eq_left (by omega)]
    rcases h with h | h <;> rcases Nat.lt_or_ge e 128 with hcount | hcount <;>
      simp [h, hnot, hcount, Nat.not_le.2 hcount, Nat.not_lt.2 hcount]
  · simp [hhigh, Nat.not_lt.2 hhigh]

/-! ### Up to the end of step 8 (R135) -/

/-- What stands when steps 1 to 8 of a packet of handset h are over but for its end: the record heard, with its vote `v` and
its low-battery flag `b`; `voted` says that a vote was added, and `raises` names the events of the processing. -/
structure Heard (s t : State) (h : Fin 16) (v b : Bool) (voted : Prop) (raises : Nat → Prop) : Prop where
  record : t.handsets.records[h] = { (s.handsets.records[h]).heard s.timebase with vote := v, lowBattery := b }
  others : ∀ k : Fin 16, k ≠ h → t.handsets.records[k] = s.handsets.records[k]
  gen : t.handsets.gen = s.handsets.gen + BitVec.ofNat 32 ((if (s.handsets.records[h]).state = .absent then 1 else 0) +
    (if (s.handsets.records[h]).lowBattery = b then 0 else 1) + (if (s.handsets.records[h]).vote = v then 0 else 1))
  tested : SkipTested s t (voted ∨ (s.handsets.records[h]).state = .absent)
  raised : Raised s t 0 (fun k => raises k ∨ k = 12 ∧ (s.handsets.records[h]).state = .absent ∨
    k = 11 ∧ s.handsets.votePassed = false ∧ t.handsets.votePassed = true)
  frame : t = { s with
    events := t.events, statusGen := t.statusGen, parser := { s.parser with assembly := none }
    handsets := t.handsets, queue := t.queue }

theorem Handset.arrived_cases {r : Handset} (h : r.state ≠ .barred) : r.arrived = .active ∨ r.arrived = .held := by
  unfold arrived
  split_ifs
  · exact .inr rfl
  · exact .inl rfl
  · cases hst : r.state <;> simp_all

theorem heard_eq {r : Handset} (h : r.state ≠ .barred) (now : Count32) :
    r.heard now = { r with state := r.arrived, presence := some now } := by
  cases hst : r.state with
  | barred => exact absurd hst h
  | absent => simp [Handset.heard, Handset.arrived, hst]
  | active | held => simp [Handset.heard, Handset.arrived, hst]

theorem arrived_differs {r : Handset} (h : r.state ≠ .barred) : r.state ≠ r.arrived ↔ r.state = .absent := by
  by_cases hst : r.state = .absent
  · refine iff_of_true ?_ hst
    rcases r.arrived_cases h with ha | ha <;> rw [hst, ha] <;> decide
  · simp [Handset.arrived, hst]

/-- The state after step 4 of a packet. -/
def arrivedState (s : State) (h : Fin 16) : State :=
  changeHandset h ((s.handsets.records[h]).heard s.timebase) (setAssembly none s)

/-- Step 4: the arrival. -/
theorem heard_arrival {s : State} (h : Fin 16) (hst : (s.handsets.records[h]).state ≠ .barred) :
    Heard s (arrivedState s h) h (s.handsets.records[h]).vote (s.handsets.records[h]).lowBattery False (fun _ => False) := by
  unfold arrivedState
  generalize hr : s.handsets.records[h] = r at hst
  have hr' : (setAssembly none s).handsets.records[h] = r := hr
  have hheard := heard_eq hst s.timebase
  have hdiffers := arrived_differs hst
  have hstate : (r.heard s.timebase).state = r.arrived := by rw [hheard]
  have hmoved : r.state.present ≠ (r.heard s.timebase).state.present ↔ r.state = .absent := by
    rw [hstate]
    rcases r.arrived_cases hst with ha | ha <;> cases hs : r.state <;> simp_all [HandsetState.present]
  have hcount : countedChanges r (r.heard s.timebase) = if r.state = .absent then 1 else 0 := by
    rw [hheard]
    simp only [countedChanges, if_true, add_zero]
    split_ifs with hsame habsent habsent
    · exact absurd hsame (hdiffers.2 habsent)
    · rfl
    · rfl
    · exact absurd (hdiffers.1 hsame) habsent
  refine ⟨?_, fun k hk => changeHandset_other hk _ _, ?_, ?_, ?_, ?_⟩
  · rw [changeHandset_record, setAt_self, hr, hheard]
  · rw [changeHandset_gen, hr', hcount, hr]
    simp [setAssembly]
  · have htested := changeHandset_tested h (r.heard s.timebase) (setAssembly none s)
    rw [hr'] at htested
    exact ((htested.iff hmoved).source rfl rfl).iff (by rw [hr]; simp)
  · have hraised := (Raised.refl (setAssembly none s)).changeHandset h (r.heard s.timebase)
    rw [hr'] at hraised
    refine (hraised.source (s := setAssembly none s) rfl rfl).iff fun k => ?_
    rw [hstate, hdiffers, hr]
    rfl
  · rw [changeHandset_eq]
    rfl

/-- What step 8 does that reaches neither the Handset Table nor anything but the queue and the events. -/
theorem Heard.process {s t u : State} {h : Fin 16} {v b : Bool} {voted : Prop} {p q : Nat → Prop} (hd : Heard s t h v b voted p)
    (hframe : u = { t with queue := u.queue, events := u.events, statusGen := u.statusGen })
    (hraised : ∀ {r : Nat} {p : Nat → Prop}, Raised s t r p → Raised s u r (fun n => p n ∨ q n)) :
    Heard s u h v b voted (fun n => p n ∨ q n) := by
  have hhandsets : u.handsets = t.handsets := by rw [hframe]
  obtain ⟨hrecord, hothers, hgen, htested, hbefore, hfr⟩ := hd
  have hafter := hraised hbefore
  refine ⟨hhandsets ▸ hrecord, hhandsets ▸ hothers, hhandsets ▸ hgen,
    htested.congr hhandsets fun h11 => (hafter.1 11 (by decide)).2 ?_, hafter.iff fun k => ?_, ?_⟩
  · exact ((hbefore.1 11 (by decide)).1 h11).imp id .inl
  · rw [hhandsets]
    exact or_right_comm
  · rw [hframe, hfr]

/-- The low-battery flag copied at step 8. -/
theorem Heard.battery {s t : State} {head : PacketHead} {v : Bool} {voted : Prop} {p : Nat → Prop}
    (hd : Heard s t head.handset v (s.handsets.records[head.handset]).lowBattery voted p) :
    Heard s (copyBattery head t) head.handset v (decide (head.flags ≠ 0)) voted p := by
  obtain ⟨hrecord, hothers, hgen, htested, hraised, hframe⟩ := hd
  refine ⟨?_, fun k hk => ?_, ?_, ?_, hraised.putHandset _ _, ?_⟩
  · rw [copyBattery, putHandset_record, setAt_self, hrecord]
  · rw [copyBattery, putHandset_record, setAt_other _ _ _ _ hk, hothers k hk]
  · rw [copyBattery, putHandset, bumpHandsets]
    simp only [hgen, hrecord, Handset.changes, changed, if_true, Nat.add_zero, Nat.zero_add]
    rw [BitVec.add_assoc, ← BitVec.ofNat_add, Nat.add_right_comm]
  · have hrecords := putHandset_record head.handset { t.handsets.records[head.handset] with lowBattery := decide (head.flags ≠ 0) } t
    exact htested.congr_passes rfl ⟨fun h => h.of_setAt hrecords id id, fun h => h.setAt hrecords id id⟩ id
  · rw [copyBattery, putHandset, hframe]
    rfl

theorem skipTest_eq (s : State) : skipTest s = { s with
    handsets := (skipTest s).handsets, events := (skipTest s).events, statusGen := (skipTest s).statusGen } := by
  simp only [skipTest, raise_eq]
  split <;> rfl

/-- A flag that two tests in a row may set is set by one of them. -/
theorem flag_logic (P Q K : Prop) (v0 v1 v2 : Bool) (h1 : v0 = true → v1 = true) (h2 : v1 = true → v2 = true) :
    ((P ∨ Q ∨ K ∧ v0 = false ∧ v1 = true) ∨ K ∧ v1 = false ∧ v2 = true) ↔ (P ∨ Q ∨ K ∧ v0 = false ∧ v2 = true) := by
  cases v0 <;> cases v1 <;> cases v2 <;> simp at h1 h2 ⊢
  exact or_assoc

/-- A vote added at step 8, with its skip test (R147, R148). -/
theorem Heard.vote {s t : State} {h : Fin 16} {b : Bool} (hd : Heard s t h false b False (fun _ => False))
    (hvote : (s.handsets.records[h]).vote = false) :
    Heard s (skipTest (putHandset h { t.handsets.records[h] with vote := true } t)) h true b True (fun _ => False) := by
  obtain ⟨hrecord, hothers, hgen, htested, hraised, hframe⟩ := hd
  let u := putHandset h { t.handsets.records[h] with vote := true } t
  have hrecords : (skipTest u).handsets.records = setAt t.handsets.records h { t.handsets.records[h] with vote := true } := by
    rw [skipTest_records, putHandset_record]
  have hflag : u.handsets.votePassed = t.handsets.votePassed := rfl
  have hclock : t.clock = s.clock := by rw [hframe]
  have hskip : SkipTested t (skipTest u) True := skipTest_tested (by simp [u]) hflag
  have hafter := (hraised.putHandset h { t.handsets.records[h] with vote := true }).skipTest
  have hkeep : s.handsets.votePassed = true → t.handsets.votePassed = true := htested.keeps_flag
  have hkeep' : t.handsets.votePassed = true → (skipTest u).handsets.votePassed = true := hskip.keeps_flag
  refine ⟨?_, fun k hk => ?_, ?_, ?_, hafter.iff fun k => ?_, ?_⟩
  · rw [hrecords, setAt_self, hrecord]
  · rw [hrecords, setAt_other _ _ _ _ hk, hothers k hk]
  · rw [skipTest_gen, putHandset, bumpHandsets]
    simp only [hgen, hrecord, hvote, Handset.changes, changed, if_true, Nat.add_zero, Nat.zero_add]
    rw [BitVec.add_assoc, ← BitVec.ofNat_add]
  · refine (htested.trans hskip hclock (fun h11 => ?_) (fun hp => ?_) (.inl trivial)).iff (by simp)
    · exact (hafter.1 11 (by decide)).2 (((hraised.1 11 (by decide)).1 h11).imp id .inl)
    · exact hp.setAt hrecords id fun _ => rfl
  · exact flag_logic _ _ _ _ _ _ hkeep hkeep'
  · rw [skipTest_eq]
    exact congrArg (fun x : State => { x with
      handsets := (skipTest u).handsets, events := (skipTest u).events, statusGen := (skipTest u).statusGen }) hframe

/-! ### The end of steps 7 and 8 (R135, R139) -/

theorem concluded_ruled {r : Handset} (h : r.state = .active ∨ r.state = .held) (seq : Byte) (a : Answer) (pending : Nat)
    (now : Count32) :
    let q := r.concluded seq a pending now
    let e := errorsRuled a.outcome r.errors
    q.errors = min e 256 ∧ q.state = (if 256 ≤ e then .barred else if 128 ≤ e then .held else .active) ∧
      q.lastSequence = some seq ∧
      (e < 256 → q.presence = r.presence ∧ q.quiet = r.quiet ∧ q.quietCount = r.quietCount) ∧
      (256 ≤ e → q.presence = none ∧ q.quiet = some now ∧ q.quietCount = 0) ∧
      q.reply = { sequence := seq, outcome := a.outcome, tag := a.tag, position := a.position, pendingCount := pending } ∧
      q.replyCount = r.replyCount + 1 ∧ q.lowBattery = r.lowBattery ∧ q.vote = r.vote := by
  intro q e
  have hx : (Handset.replied { r with lastSequence := some seq } seq a pending).state = .active ∨
      (Handset.replied { r with lastSequence := some seq } seq a pending).state = .held := h
  obtain ⟨herrors, hstate, hlow, hhigh, hreply, hcount⟩ := follow_ruled hx (errorsRuled a.outcome r.errors) now
  obtain ⟨hsequence, hbattery, hvote⟩ :=
    follow_keeps (Handset.replied { r with lastSequence := some seq } seq a pending) (errorsRuled a.outcome r.errors) now
  exact ⟨herrors, hstate, hsequence, hlow, hhigh, hreply, hcount, hbattery, hvote⟩

theorem present_concluded {r : Handset} (h : r.state = .active ∨ r.state = .held) (seq : Byte) (a : Answer) (pending : Nat)
    (now : Count32) : (r.concluded seq a pending now).state.present = true ↔ (r.concluded seq a pending now).state ≠ .barred := by
  obtain ⟨-, hstate, -⟩ := concluded_ruled h seq a pending now
  rw [hstate]
  split_ifs <;> decide

theorem concludePacket_tested {u : State} {h : Fin 16}
    (hst : (u.handsets.records[h]).state = .active ∨ (u.handsets.records[h]).state = .held) (seq : Byte) (a : Answer) :
    SkipTested u (concludePacket h seq a u) (((concludePacket h seq a u).handsets.records[h]).state = .barred) := by
  have hq : (concludePacket h seq a u).handsets.records[h] =
      (u.handsets.records[h]).concluded seq a (u.queue.pendingCount h) u.timebase := by
    rw [concludePacket_records, setAt_self]
  have hpresent := present_concluded hst seq a (u.queue.pendingCount h) u.timebase
  rw [← hq] at hpresent
  obtain ⟨v, hv⟩ : ∃ v, v = writeReply h seq a (putHandset h { u.handsets.records[h] with lastSequence := some seq } u) :=
    ⟨_, rfl⟩
  have hchange : concludePacket h seq a u =
      changeHandset h ((v.handsets.records[h]).follow (errorsAfter a.outcome (v.handsets.records[h]).errors) v.timebase) v := by
    rw [hv]
    rfl
  have hvstate : (v.handsets.records[h]).state.present = true := by
    rw [hv, writeReply_records, setAt_self, putHandset_record, setAt_self, HandsetState.present_iff]
    exact hst
  have hvflag : v.handsets.votePassed = u.handsets.votePassed := by
    rw [hv, writeReply_flag]
    rfl
  have hvclock : v.clock = u.clock := by simp [hv]
  generalize (v.handsets.records[h]).follow (errorsAfter a.outcome (v.handsets.records[h]).errors) v.timebase = x at hchange
  have hx : (concludePacket h seq a u).handsets.records[h] = x := by rw [hchange, changeHandset_record, setAt_self]
  have htested := changeHandset_tested h x v
  rw [← hchange, ← hx] at htested
  refine (htested.iff ?_).source hvflag.symm hvclock.symm
  rw [hvstate]
  constructor
  · intro hne
    by_contra hnot
    exact hne (hpresent.2 hnot).symm
  · intro hbarred heq
    exact hpresent.1 heq.symm hbarred

/-- The end of a packet that was handled, from what stood before it. -/
theorem Heard.conclude {s u : State} {head : PacketHead} {v b : Bool} {voted : Prop} {p : Nat → Prop} {a : Answer}
    (hd : Heard s u head.handset v b voted p) (hst : (s.handsets.records[head.handset]).state ≠ .barred)
    (hp : ∀ n, p n ↔ n = 10 ∧ a.outcome = .waiting ∨ n = 14 ∧ u.queue.gen ≠ s.queue.gen) :
    let t := concludePacket head.handset head.sequence a u
    t.queue = u.queue ∧ Replied s t head a.outcome a.tag a.position ∧ PacketFrame s t head.handset ∧ Concluded s t head voted ∧
      (t.handsets.records[head.handset]).lowBattery = b ∧ (t.handsets.records[head.handset]).vote = v := by
  intro t
  obtain ⟨hrecord, hothers, hgen, htested, hraised, hframe⟩ := hd
  have hnow : u.timebase = s.timebase := by rw [hframe]
  have hclock : u.clock = s.clock := by rw [hframe]
  have hqueue : t.queue = u.queue := by simp [t]
  have hrecords := concludePacket_records head.handset head.sequence a u
  have harrived := Handset.arrived_cases hst
  have hheard := heard_eq hst s.timebase
  have hustate : (u.handsets.records[head.handset]).state = .active ∨ (u.handsets.records[head.handset]).state = .held := by
    rw [hrecord, hheard]
    exact harrived
  have hq : t.handsets.records[head.handset] = (u.handsets.records[head.handset]).concluded head.sequence a
      (u.queue.pendingCount head.handset) u.timebase := by rw [hrecords, setAt_self]
  obtain ⟨herrors, hstate, hsequence, hlow, hhigh, hreply, hcount, hbattery, hvote⟩ :=
    concluded_ruled hustate head.sequence a (u.queue.pendingCount head.handset) u.timebase
  rw [← hq] at herrors hstate hsequence hlow hhigh hreply hcount hbattery hvote
  obtain ⟨hgenT, hraisedT⟩ := packet_counts head s u p a v b _ hst hrecord hgen (fun h => htested.keeps_flag h) hraised
  have houtcome : (t.handsets.records[head.handset]).reply.outcome = a.outcome := by rw [hreply]
  have huerrors : (u.handsets.records[head.handset]).errors = (s.handsets.records[head.handset]).errors := by
    rw [hrecord, hheard]
  have htestedT : SkipTested s t ((voted ∨ (s.handsets.records[head.handset]).state = .absent) ∨
      (t.handsets.records[head.handset]).state = .barred) := by
    refine htested.trans (concludePacket_tested hustate head.sequence a) hclock (fun h11 => ?_) (fun hpass => ?_) ?_
    · exact ((Raised.refl u).concludePacket head.handset head.sequence a).1 11 (by decide) |>.2 (.inl h11)
    · exact hpass.setAt hrecords (fun _ => (HandsetState.present_iff _).2 hustate) (by rw [← hq, hvote]; exact id)
    · by_cases hbarred : (t.handsets.records[head.handset]).state = .barred
      · exact .inl hbarred
      · refine .inr fun hpass => hpass.of_setAt hrecords (fun _ => ?_) (by rw [← hq, hvote]; exact id)
        rw [present_concluded hustate, ← hq]
        exact hbarred
  rw [huerrors, ← houtcome] at herrors hstate hlow hhigh
  refine ⟨hqueue, ⟨by rw [hreply, hqueue], ?_, ?_⟩, ⟨?_, fun k hk => ?_⟩,
    ⟨herrors, hstate, hsequence, fun he => ?_, fun he => ?_, htestedT.iff or_assoc, hgenT, hraisedT.iff fun n => ?_⟩, ?_, ?_⟩
  · rw [hcount, hrecord, hheard]
  · exact (hraisedT.1 13 (by decide)).2 (.inr (.inr (.inl rfl)))
  · have hconcluded := (concludePacket_eq head.handset head.sequence a u).trans (congrArg (fun x : State => { x with
      handsets := t.handsets, events := t.events, statusGen := t.statusGen }) hframe)
    rw [hqueue]
    exact hconcluded
  · rw [hrecords, setAt_other _ _ _ _ hk, hothers k hk]
  · rw [hrecord, hheard] at hlow
    exact hlow he
  · rw [hnow] at hhigh
    exact hhigh he
  · rw [hp n, houtcome, hqueue, or_comm, or_assoc, or_assoc]
  · rw [hbattery, hrecord]
  · rw [hvote, hrecord]

end Sys2Proof.Machine
end

section
/-! The packets by kind: what each comes to (sections 8.2, 8.3, 8.4). -/

namespace Sys2Proof.Machine

/-! ### From the row to its handling (R135) -/

/-- Every packet row hands one packet over. -/
theorem exec_packetRow {c : Instr} {head : PacketHead} (h : packetOf c = some head) (hwf : c.wellFormed = true) :
    ∃ process, ∀ s, exec c s = handOver (fun s => handlePacket head process (setAssembly none s)) s := by
  cases c <;> cases h
  case request f => exact ⟨_, fun _ => rfl⟩
  case cancel song => exact ⟨_, fun _ => rfl⟩
  case voteSkip song => exact ⟨_, fun _ => rfl⟩
  case query => exact ⟨_, fun _ => rfl⟩
  case packetUnknownKind kind =>
    have hkind : ¬ kind.toNat < 5 := by simpa [Instr.wellFormed] using hwf
    exact ⟨none, fun _ => if_neg hkind⟩

theorem arrivedState_frame (s : State) (h : Fin 16) :
    (arrivedState s h).queue = s.queue ∧ (arrivedState s h).anchor = s.anchor ∧ (arrivedState s h).clock = s.clock ∧
      (arrivedState s h).room = s.room ∧ (arrivedState s h).timebase = s.timebase := by
  simp [arrivedState]

theorem arrivedState_record {s : State} {h : Fin 16} (hst : (s.handsets.records[h]).state ≠ .barred) :
    (arrivedState s h).handsets.records[h] =
      { s.handsets.records[h] with state := (s.handsets.records[h]).arrived, presence := some s.timebase } := by
  rw [(heard_arrival h hst).record, heard_eq hst]

theorem arrivedState_not_barred {s : State} {h : Fin 16} (hst : (s.handsets.records[h]).state ≠ .barred) :
    ((arrivedState s h).handsets.records[h]).state ≠ .barred := by
  have hstate : ((arrivedState s h).handsets.records[h]).state = (s.handsets.records[h]).arrived := by
    rw [arrivedState_record hst]
  rw [hstate]
  rcases Handset.arrived_cases hst with ha | ha <;> rw [ha] <;> decide

/-- A record replaced by itself. -/
theorem changeHandset_same {h : Fin 16} {s : State} {r : Handset} (hr : s.handsets.records[h] = r) : changeHandset h r s = s := by
  have hset : setAt s.handsets.records h r = s.handsets.records := by rw [← hr, setAt_get_self]
  have hput : putHandset h r s = s := by
    simp only [putHandset, bumpHandsets, hset, hr, Handset.changes, changed, if_true]
    simp
  simp only [changeHandset, hput, raiseIf_eq, hr]
  simp

theorem heard_of_barred {r : Handset} (h : r.state = .barred) (now : Count32) : r.heard now = r := by
  simp [Handset.heard, h]

theorem arrivedState_of_barred {s : State} {h : Fin 16} (hst : (s.handsets.records[h]).state = .barred) :
    arrivedState s h = setAssembly none s := by
  rw [arrivedState, heard_of_barred hst]
  exact changeHandset_same rfl

theorem handlePacket_closed {s : State} {head : PacketHead} (h : s.room.state = .closed)
    (process : Option (State → Answer × State)) :
    handlePacket head process (setAssembly none s) =
      writeReply head.handset head.sequence (.plain .roomClosed) (setAssembly none s) := if_pos h

theorem handlePacket_barred {s : State} {head : PacketHead} (hroom : s.room.state ≠ .closed)
    (hst : (s.handsets.records[head.handset]).state = .barred) (process : Option (State → Answer × State)) :
    handlePacket head process (setAssembly none s) =
      answerBarred head.handset head.sequence (setAssembly none s) := by
  have hopen : ¬ (setAssembly none s).room.state = .closed := hroom
  simp only [handlePacket, hopen, if_false]
  change (if ((arrivedState s head.handset).handsets.records[head.handset]).state = .barred then
    answerBarred head.handset head.sequence (arrivedState s head.handset) else _) = _
  rw [arrivedState_of_barred hst]
  exact if_pos hst

theorem handlePacket_repeat {s : State} {head : PacketHead} (hroom : s.room.state ≠ .closed)
    (hst : (s.handsets.records[head.handset]).state ≠ .barred)
    (hsequence : (s.handsets.records[head.handset]).lastSequence = some head.sequence)
    (process : Option (State → Answer × State)) :
    handlePacket head process (setAssembly none s) = arrivedState s head.handset := by
  have hrecord := arrivedState_record hst
  have hnot := arrivedState_not_barred hst
  have hrepeat : ((arrivedState s head.handset).handsets.records[head.handset]).lastSequence = some head.sequence := by
    rw [hrecord, hsequence]
  have hopen : ¬ (setAssembly none s).room.state = .closed := hroom
  simp only [handlePacket, hopen, if_false]
  exact (if_neg hnot).trans (if_pos hrepeat)

theorem handlePacket_handled {s : State} {head : PacketHead} (h : Handled s head)
    (process : Option (State → Answer × State)) :
    handlePacket head process (setAssembly none s) =
      match process with
      | none => concludePacket head.handset head.sequence (.plain .fieldError) (arrivedState s head.handset)
      | some p => concludePacket head.handset head.sequence (p (arrivedState s head.handset)).1
          (copyBattery head (p (arrivedState s head.handset)).2) := by
  obtain ⟨-, hroom, hst, hsequence⟩ := h
  have hrecord := arrivedState_record hst
  have hnot := arrivedState_not_barred hst
  have hfresh : ¬ ((arrivedState s head.handset).handsets.records[head.handset]).lastSequence = some head.sequence := by
    rw [hrecord]
    exact hsequence
  have hopen : ¬ (setAssembly none s).room.state = .closed := hroom
  simp only [handlePacket, hopen, if_false]
  refine (if_neg hnot).trans ((if_neg hfresh).trans ?_)
  cases process <;> rfl

/-! ### Packets turned back (R135, R138, R140) -/

theorem answerBarred_records (h : Fin 16) (seq : Byte) (s : State) :
    (answerBarred h seq s).handsets.records = setAt s.handsets.records h
      (Handset.replied { s.handsets.records[h] with lastSequence := some seq, quietCount := 0, quiet := some s.timebase } seq
        (.plain .barred) (s.queue.pendingCount h)) := by
  simp only [answerBarred, writeReply_records, putHandset_record, setAt_setAt, setAt_self]
  rfl

/-- Settles O47: a closed room, a BARRED handset, a repeat. -/
theorem packetsTurnedBack : Obligations.PacketsTurnedBack := by
  intro c head s hc hwf hup r
  obtain ⟨process, hrow⟩ := exec_packetRow hc hwf
  have hexec : ∀ t, handlePacket head process (setAssembly none s) = t → exec c s = .next t := by
    rintro t rfl
    rw [hrow, handOver_of_busUp hup]
  refine ⟨fun hroom => ?closed, fun hroom hst => ?barred, fun hroom hst hsequence => ?again⟩
  case closed =>
    let t := writeReply head.handset head.sequence (.plain .roomClosed) (setAssembly none s)
    have hrecords : t.handsets.records = setAt s.handsets.records head.handset
        (r.replied head.sequence (.plain .roomClosed) (s.queue.pendingCount head.handset)) := writeReply_records _ _ _ _
    have hraised := (Raised.refl (setAssembly none s)).writeReply head.handset head.sequence (.plain .roomClosed)
    have hself : t.handsets.records[head.handset] = _ := (congrArg (·[head.handset]) hrecords).trans (setAt_self _ _ _)
    have hqueue : t.queue = s.queue := by simp [t]
    refine ⟨t, hexec _ (handlePacket_closed hroom process), ⟨?_, ?_, ?_⟩, ⟨?_, fun k hk => ?_⟩, hqueue, .idle ?_ id, ?_, ?_, ?_⟩
    · rw [hself, hqueue]; rfl
    · rw [hself]; rfl
    · exact (hraised.1 13 (by decide)).2 (.inr (.inr rfl))
    · rw [hqueue]; exact writeReply_eq _ _ _ _
    · rw [hrecords, setAt_other _ _ _ _ hk]
    · exact writeReply_flag _ _ _ _
    · exact writeReply_gen _ _ _ _
    · exact (hraised.source rfl rfl).iff fun n => by simp
    · rw [hself]; rfl
  case barred =>
    let t := answerBarred head.handset head.sequence (setAssembly none s)
    let x : Handset := { r with lastSequence := some head.sequence, quietCount := 0, quiet := some s.timebase }
    have hrecords : t.handsets.records = setAt s.handsets.records head.handset
        (x.replied head.sequence (.plain .barred) (s.queue.pendingCount head.handset)) := answerBarred_records _ _ _
    have hraised := ((Raised.refl (setAssembly none s)).putHandset head.handset x).writeReply head.handset head.sequence (.plain .barred)
    have hself : t.handsets.records[head.handset] = _ := (congrArg (·[head.handset]) hrecords).trans (setAt_self _ _ _)
    have hqueue : t.queue = s.queue := by simp [t]
    refine ⟨t, hexec _ (handlePacket_barred hroom hst process), ⟨?_, ?_, ?_⟩, ⟨?_, fun k hk => ?_⟩, hqueue, .idle ?_ id, ?_, ?_, ?_⟩
    · rw [hself, hqueue]; rfl
    · rw [hself]; rfl
    · exact (hraised.1 13 (by decide)).2 (.inr (.inr rfl))
    · rw [hqueue]; exact writeReply_eq _ _ _ _
    · rw [hrecords, setAt_other _ _ _ _ hk]
    · exact writeReply_flag _ _ _ _
    · have hgen : t.handsets.gen = s.handsets.gen + BitVec.ofNat 32 (if r.lastSequence = some head.sequence then 0 else 1) + 1 := by
        refine (writeReply_gen _ _ _ _).trans ?_
        simp [putHandset, bumpHandsets, Handset.changes, changed, r]
      rw [hgen, BitVec.add_assoc]
      split <;> rfl
    · exact (hraised.source rfl rfl).iff fun n => by simp
    · rw [hself]; rfl
  case again =>
    obtain ⟨hrecord, hothers, hgen, htested, hraised, hframe⟩ := heard_arrival head.handset hst
    have hqueue : (arrivedState s head.handset).queue = s.queue := by simp [arrivedState]
    refine ⟨arrivedState s head.handset, hexec _ (handlePacket_repeat hroom hst hsequence process), ⟨hframe, hothers⟩, hqueue,
      htested.iff (by rw [false_or]), ?_, hraised.iff fun n => by rw [false_or], arrivedState_record hst⟩
    rw [hgen]
    simp only [if_true, Nat.add_zero]
    split <;> rfl

/-! ### Fields out of range (R136) -/

theorem songOf_eq_none {v : BitVec 24} (h : v.toNat = 0 ∨ 999999 < v.toNat) : songOf v = none := by
  have hnot : ¬ (1 ≤ v.toNat ∧ v.toNat ≤ 999999) := by omega
  simpa [songOf] using hnot

theorem songOf_eq_some {v : BitVec 24} (h1 : 1 ≤ v.toNat) (h2 : v.toNat ≤ 999999) : songOf v = some v.toNat := by
  simp [songOf, h1, h2]

theorem difficultyOf_range {b : Byte} {d : Difficulty} (h : difficultyOf b = some d) : b.toNat ≤ 2 := by
  unfold difficultyOf at h
  split_ifs at h with h0 h1 h2
  · rw [h0]; decide
  · rw [h1]; decide
  · rw [h2]; decide

theorem keyOf_range {b : Byte} {k : Int} (h : keyOf b = some k) : -6 ≤ b.toInt ∧ b.toInt ≤ 6 := by
  unfold keyOf signed8 at h
  split at h
  case isTrue hrange => simpa only [Bool.and_eq_true, decide_eq_true_eq] using hrange
  case isFalse => cases h

theorem keyOf_eq_some {b : Byte} (h1 : -6 ≤ b.toInt) (h2 : b.toInt ≤ 6) : keyOf b = some b.toInt :=
  if_pos (by
    simp only [Bool.and_eq_true, decide_eq_true_eq]
    exact ⟨h1, h2⟩)

theorem secondsOf_range {v : BitVec 16} {n : Nat} (h : secondsOf v = some n) : 1 ≤ v.toNat ∧ v.toNat ≤ 1800 := by
  unfold secondsOf at h
  split at h
  case isTrue hrange => simpa only [Bool.and_eq_true, decide_eq_true_eq] using hrange
  case isFalse => cases h

theorem secondsOf_eq_some {v : BitVec 16} (h1 : 1 ≤ v.toNat) (h2 : v.toNat ≤ 1800) : secondsOf v = some v.toNat := by
  simp [secondsOf, h1, h2]

theorem requestArguments_eq_none {f : RequestFields}
    (h : f.song.toNat = 0 ∨ 999999 < f.song.toNat ∨ 2 < f.difficulty.toNat ∨ f.key.toInt < -6 ∨ 6 < f.key.toInt ∨
      f.duration.toNat = 0 ∨ 1800 < f.duration.toNat) : requestArguments f = none := by
  unfold requestArguments
  split
  case h_2 => rfl
  case h_1 n d k t hsong hdifficulty hkey hduration =>
    have hsong' : 1 ≤ f.song.toNat ∧ f.song.toNat ≤ 999999 := by
      by_contra hnot
      rw [songOf_eq_none (by omega)] at hsong
      cases hsong
    have hdifficulty' := difficultyOf_range hdifficulty
    have hkey' := keyOf_range hkey
    have hduration' := secondsOf_range hduration
    omega

theorem flagsLegal_eq_false {head : PacketHead} (h : 1 < head.flags.toNat) : flagsLegal head = false :=
  decide_eq_false (by omega)

theorem flagsLegal_eq_true {head : PacketHead} (h : head.flags.toNat ≤ 1) : flagsLegal head = true := decide_eq_true h

/-- A packet that no processing follows is answered FIELD_ERROR. -/
theorem handled_fieldError {head : PacketHead} {s : State} (h : Handled s head) :
    let t := handlePacket head none (setAssembly none s)
    Replied s t head .fieldError 0 0 ∧ PacketFrame s t head.handset ∧ t.queue = s.queue ∧ Concluded s t head False ∧
      (t.handsets.records[head.handset]).lowBattery = (s.handsets.records[head.handset]).lowBattery ∧
      (t.handsets.records[head.handset]).vote = (s.handsets.records[head.handset]).vote := by
  have hpacket := handlePacket_handled h none
  obtain ⟨-, -, hst, -⟩ := h
  obtain ⟨hsame, -⟩ := arrivedState_frame s head.handset
  obtain ⟨hqueue, hreplied, hframe, hconcluded, hbattery, hvote⟩ :=
    (heard_arrival head.handset hst).conclude (a := .plain .fieldError) hst (fun n => by simp [Answer.plain, hsame])
  rw [hpacket]
  exact ⟨hreplied, hframe, hqueue.trans hsame, hconcluded, hbattery, hvote⟩

/-- Settles O48: each field out of range leaves nothing to process. -/
theorem fieldErrors : Obligations.FieldErrors := by
  intro head s h fails
  have hup : s.busUp = true := h.1
  have hfails : ∀ c : Instr, exec c s = handOver (fun s => handlePacket head none (setAssembly none s)) s → fails c :=
    fun c hc => ⟨_, hc.trans (handOver_of_busUp hup _), handled_fieldError h⟩
  refine ⟨fun f hf => hfails _ ?request, fun song hsong => ⟨hfails _ ?cancel, hfails _ ?vote⟩, fun hflags => hfails _ ?query,
    fun kind hkind => hfails _ ?unknown⟩
  case request =>
    have hnone : (if flagsLegal head = true then (requestArguments f).map (fun q => processRequest head.handset q) else none) = none := by
      rcases hf with hflags | hfields
      · rw [flagsLegal_eq_false hflags]; rfl
      · rw [requestArguments_eq_none hfields]; split <;> rfl
    simp only [exec, execRequest, requestPacket, hnone]
  case cancel =>
    have hnone : (if flagsLegal head = true then (songOf song).map (fun n => processCancel head.handset n) else none) = none := by
      rcases hsong with hflags | hfields
      · rw [flagsLegal_eq_false hflags]; rfl
      · rw [songOf_eq_none hfields]; split <;> rfl
    simp only [exec, execCancel, cancelPacket, hnone]
  case vote =>
    have hnone : (if flagsLegal head = true then (songOf song).map (fun n => processVote head.handset n) else none) = none := by
      rcases hsong with hflags | hfields
      · rw [flagsLegal_eq_false hflags]; rfl
      · rw [songOf_eq_none hfields]; split <;> rfl
    simp only [exec, execVoteSkip, votePacket, hnone]
  case query =>
    have hnone : (if flagsLegal head = true then some (processQuery head.handset) else none) = none := by
      rw [flagsLegal_eq_false hflags]; rfl
    simp only [exec, execQuery, queryPacket, hnone]
  case unknown => exact if_neg (by omega)

/-! ### Processing that reaches the queue alone (R144 to R149) -/

/-- Step 8 of a packet reaches the queue and the events alone: REQUEST_WAITING with outcome WAITING, QUEUE_CHANGED with a
change of the queue. -/
structure Processed (s u : State) (a : Answer) : Prop where
  frame : u = { s with queue := u.queue, events := u.events, statusGen := u.statusGen }
  raised : ∀ {s0 : State} {r : Nat} {p : Nat → Prop}, Raised s0 s r p →
    Raised s0 u r (fun n => p n ∨ (n = 10 ∧ a.outcome = .waiting ∨ n = 14 ∧ u.queue.gen ≠ s.queue.gen))

theorem Processed.refl (s : State) {a : Answer} (h : a.outcome ≠ .waiting) : Processed s s a :=
  ⟨rfl, fun hr => hr.iff fun n => by simp [h]⟩

/-- What a packet comes to whose processing only answers and touches the queue, told of the state the processing is given. -/
theorem handled_processed {head : PacketHead} {s : State} (h : Handled s head) {p : State → Answer × State}
    (hp : ∀ u, u.clock = s.clock → (u.handsets.records[head.handset]).vote = (s.handsets.records[head.handset]).vote →
      Processed u (p u).2 (p u).1) {c : Instr}
    (hc : exec c s = .next (handlePacket head (some p) (setAssembly none s))) :
    ∃ u, u.queue = s.queue ∧ u.anchor = s.anchor ∧ u.clock = s.clock ∧ u.room = s.room ∧
      (u.handsets.records[head.handset]).state = (s.handsets.records[head.handset]).arrived ∧
      ∃ t, exec c s = .next t ∧ t.queue = (p u).2.queue ∧ Replied s t head (p u).1.outcome (p u).1.tag (p u).1.position ∧
        PacketFrame s t head.handset ∧ Concluded s t head False ∧
        (t.handsets.records[head.handset]).lowBattery = decide (head.flags ≠ 0) ∧
        (t.handsets.records[head.handset]).vote = (s.handsets.records[head.handset]).vote := by
  have hpacket := handlePacket_handled h (some p)
  obtain ⟨-, -, hst, -⟩ := h
  obtain ⟨hsame, hanchor, hclock, hroom, -⟩ := arrivedState_frame s head.handset
  obtain ⟨hframe, hraised⟩ := hp (arrivedState s head.handset) hclock (by rw [arrivedState_record hst])
  have hheard := ((heard_arrival head.handset hst).process hframe hraised).battery
  have hqueue : (copyBattery head (p (arrivedState s head.handset)).2).queue = (p (arrivedState s head.handset)).2.queue := by simp
  obtain ⟨htqueue, hrest⟩ := hheard.conclude (a := (p (arrivedState s head.handset)).1) hst
    (fun n => by rw [hqueue, ← hsame, false_or])
  refine ⟨arrivedState s head.handset, hsame, hanchor, hclock, hroom, by rw [arrivedState_record hst], ?_⟩
  rw [hc, hpacket]
  exact ⟨_, rfl, htqueue.trans hqueue, hrest⟩

/-! ### REQUEST (R143 to R145, R154) -/

theorem Filter.hits_iff (m : Mem) {song : Nat} (h : Fin 16) (f : Nat) :
    (filterAt m f).hits song h = true ↔ FilterMatches m song h f := by
  have hvalue : m.field (0x180 + 16 * f) 3 = word24 m (0x180 + 16 * f) := by
    simp only [Mem.field, word24, word16, Nat.add_assoc, Nat.reduceAdd]; omega
  have hmask : m.field (0x180 + 16 * f + 4) 3 = word24 m (0x180 + 16 * f + 4) := by
    simp only [Mem.field, word24, word16, Nat.add_assoc, Nat.reduceAdd]; omega
  have hset : m.field (0x180 + 16 * f + 8) 2 = word16 m (0x180 + 16 * f + 8) := by
    simp only [Mem.field, word16, Nat.add_assoc, Nat.reduceAdd]; omega
  have hbits : (song ^^^ word24 m (0x180 + 16 * f) % 2 ^ 20) &&& (word24 m (0x180 + 16 * f + 4) % 2 ^ 20) = 0 ↔
      ∀ i, i < 20 → (word24 m (0x180 + 16 * f + 4)).testBit i = true →
        song.testBit i = (word24 m (0x180 + 16 * f)).testBit i := by
    constructor
    · intro hzero i hi hbit
      have hand := congrArg (fun v : Nat => v.testBit i) hzero
      rw [Nat.testBit_and, Nat.testBit_xor, Nat.testBit_mod_two_pow, Nat.testBit_mod_two_pow, Nat.zero_testBit] at hand
      simpa [hi, hbit] using hand
    · intro hall
      refine Nat.eq_of_testBit_eq fun i => ?_
      rw [Nat.testBit_and, Nat.testBit_xor, Nat.testBit_mod_two_pow, Nat.testBit_mod_two_pow, Nat.zero_testBit]
      by_cases hi : i < 20
      · cases hbit : (word24 m (0x180 + 16 * f + 4)).testBit i with
        | false => simp
        | true => simp [hi, hall i hi hbit]
      · simp [hi]
  have hmember : (BitVec.ofNat 16 (word16 m (0x180 + 16 * f + 8))).getLsbD h.val =
      (word16 m (0x180 + 16 * f + 8)).testBit h.val := by
    rw [BitVec.getLsbD_ofNat, decide_eq_true h.isLt, Bool.true_and]
  simp only [Filter.hits, filterAt, hvalue, hmask, hset, Bool.and_eq_true, decide_eq_true_eq, hbits, hmember, FilterMatches, and_assoc]

theorem filterAction_ruled (m : Mem) (song : Nat) (h : Fin 16) :
    FiltersGive m song h (filterAction m song h) := by
  have hfind : ∀ {o}, (List.range 8).find? (fun f => (filterAt m f).hits song h) = o →
      filterAction m song h = match o.map (filterAt m) with
        | some f => f.action
        | none => defaultAction m := by
    rintro o rfl
    rw [filterAction, List.find?_map]
    rfl
  refine ⟨fun f hf hmatch hfirst => ?_, fun hnone => ?_⟩
  · refine hfind (o := some f) (List.find?_range_eq_some.2 ⟨(Filter.hits_iff m h f).2 hmatch, by simpa using hf, fun g hg => ?_⟩)
    simpa using mt (Filter.hits_iff m h g).1 (hfirst g hg)
  · refine hfind (o := none) (List.find?_range_eq_none.2 fun f hf => ?_)
    simpa using mt (Filter.hits_iff m h f).1 (hnone f hf)

theorem findIdx?_none {α : Type} {p : α → Bool} {l : List α} (h : ∀ x ∈ l, p x = false) : l.findIdx? p = none :=
  List.findIdx?_eq_none_iff.2 h

/-- What a search finds, by the first place it holds. -/
theorem findIdx?_cases {α : Type} (p : α → Prop) [DecidablePred p] (l : List α) :
    (l.findIdx? (fun x => decide (p x)) = none ∧ ∀ x ∈ l, ¬ p x) ∨
      ∃ pre x post, l = pre ++ x :: post ∧ (∀ y ∈ pre, ¬ p y) ∧ p x ∧
        l.findIdx? (fun x => decide (p x)) = some pre.length ∧ l[pre.length]? = some x := by
  induction l with
  | nil => exact .inl ⟨rfl, nofun⟩
  | cons a l ih =>
    by_cases ha : p a
    · exact .inr ⟨[], a, l, rfl, nofun, ha, by simp [List.findIdx?_cons, ha], rfl⟩
    · rcases ih with ⟨hnone, hall⟩ | ⟨pre, x, post, rfl, hpre, hx, hsome, hget⟩
      · exact .inl ⟨by simp [List.findIdx?_cons, ha, hnone], by simpa [ha] using hall⟩
      · refine .inr ⟨a :: pre, x, post, rfl, ?_, hx, by simp [List.findIdx?_cons, ha, hsome], by simp⟩
        rintro y (hy | hy)
        · exact ha
        · exact hpre y (by assumption)

theorem gen_advances (x : BitVec 32) : x + 1 ≠ x := by bv_omega

theorem mergeEntry_processed (i : Nat) (e : Entry) (s : State) (a : Answer) (h : a.outcome ≠ .waiting) :
    Processed s (mergeEntry i e s) a := by
  unfold mergeEntry
  split
  case isTrue =>
    refine ⟨by rw [queueChanged_eq]; rfl, fun hr => ?_⟩
    refine (Raised.queueChanged (t := putEntry i { e with repeats := e.repeats + 1 } s) (hr.congr rfl rfl)).iff fun n => ?_
    have hgen : (queueChanged (putEntry i { e with repeats := e.repeats + 1 } s)).queue.gen ≠ s.queue.gen := by
      rw [queueChanged_queue]
      exact gen_advances _
    simp only [h, hgen, and_false, false_or, ne_eq, not_false_eq_true, and_true]
  case isFalse => exact .refl s h

theorem evaluatedQueue_gen (t : State) (q : Queue) :
    (evaluatedQueue t q).gen = q.gen ∨ (evaluatedQueue t q).gen = q.gen + 1 := by
  unfold evaluatedQueue
  simp only
  split_ifs
  · exact .inl (by simp)
  · exact .inr rfl

theorem addEntry_queue (position : Nat) (e : Entry) (s : State) :
    (addEntry position e s).queue = evaluatedQueue s { s.queue with
      entries := placeAt s.queue.entries position { e with tag := s.queue.freeTag }, nextTag := tagAfter s.queue.freeTag
      gen := s.queue.gen + 1 } := by
  rw [addEntry, standbyEvaluate_queue, queueChanged_queue]
  exact evaluatedQueue_congr (by simp) (by simp) (by simp) _

/-- A change of the queue with its evaluation raises QUEUE_CHANGED and nothing else. -/
theorem Raised.changedAndEvaluated {s0 t : State} {r : Nat} {p : Nat → Prop} (h : Raised s0 t r p) :
    Raised s0 (Machine.standbyEvaluate (Machine.queueChanged t)) r (fun n => p n ∨ n = 14) := by
  refine h.queueChanged.standbyEvaluate.iff fun n => ⟨?_, .inl⟩
  rintro (hn | ⟨hn, -⟩)
  · exact hn
  · exact .inr hn

theorem addEntry_raised {s0 s : State} {r : Nat} {p : Nat → Prop} (h : Raised s0 s r p) (position : Nat) (e : Entry) :
    Raised s0 (addEntry position e s) r (fun n => p n ∨ n = 14) :=
  Raised.changedAndEvaluated (h.congr rfl rfl)

theorem removeEntry_raised {s0 s : State} {r : Nat} {p : Nat → Prop} (h : Raised s0 s r p) (i : Nat) :
    Raised s0 (removeEntry i s) r (fun n => p n ∨ n = 14) :=
  Raised.changedAndEvaluated (h.congr rfl rfl)

theorem removeEntry_queue (i : Nat) (s : State) :
    (removeEntry i s).queue = evaluatedQueue s { s.queue with entries := s.queue.entries.eraseIdx i, gen := s.queue.gen + 1 } := by
  rw [removeEntry, standbyEvaluate_queue, queueChanged_queue]
  exact evaluatedQueue_congr (by simp) (by simp) (by simp) _

/-- A change counted once, and once more when the evaluation changes a state, never comes round. -/
theorem evaluatedQueue_gen_ne (t : State) (q : Queue) (g : BitVec 32) (h : q.gen = g + 1) : (evaluatedQueue t q).gen ≠ g := by
  rcases evaluatedQueue_gen t q with hg | hg <;> rw [hg, h] <;> bv_omega

theorem queueChanged_eq_frame (s : State) : queueChanged s = { s with
    queue := (queueChanged s).queue, events := (queueChanged s).events, statusGen := (queueChanged s).statusGen } := by
  rw [queueChanged_eq]
  rfl

theorem standbyEvaluate_eq_frame (s : State) : standbyEvaluate s = { s with
    queue := (standbyEvaluate s).queue, events := (standbyEvaluate s).events, statusGen := (standbyEvaluate s).statusGen } := by
  rw [standbyEvaluate_eq]
  split <;> rfl

theorem raiseIf_eq_frame (c : Bool) (e : Event) (s : State) : raiseIf c e s = { s with
    events := (raiseIf c e s).events, statusGen := (raiseIf c e s).statusGen } := by
  rw [raiseIf_eq]
  split <;> rfl

theorem removeEntry_processed (i : Nat) (s : State) {a : Answer} (h : a.outcome ≠ .waiting) : Processed s (removeEntry i s) a := by
  refine ⟨?_, fun hr => (removeEntry_raised hr i).iff fun n => ?_⟩
  · rw [removeEntry, standbyEvaluate_eq_frame, queueChanged_eq_frame]
  · have hgen : (removeEntry i s).queue.gen ≠ s.queue.gen := by
      rw [removeEntry_queue]
      exact evaluatedQueue_gen_ne _ _ _ rfl
    simp only [h, hgen, and_false, false_or, ne_eq, not_false_eq_true, and_true]

theorem EntryState.outcome_waiting (x : EntryState) : x.outcome = .waiting ↔ x = .waiting := by
  cases x <;> simp [EntryState.outcome]

theorem appendRequest_processed (h : Fin 16) (q : SongRequest) (waits : Bool) (s : State) :
    Processed s (appendRequest h q waits s).2 (appendRequest h q waits s).1 := by
  let v := addEntry 0 (q.entry h waits) s
  have hqueue : (appendRequest h q waits s).2.queue = v.queue := by simp [appendRequest, answerAppend, v]
  have hgen : v.queue.gen ≠ s.queue.gen := by
    simp only [v]
    rw [addEntry_queue]
    exact evaluatedQueue_gen_ne _ _ _ rfl
  refine ⟨?_, fun hr => ?_⟩
  · have hv : v = { s with queue := v.queue, events := v.events, statusGen := v.statusGen } := by
      simp only [v]
      rw [addEntry, standbyEvaluate_eq_frame, queueChanged_eq_frame]
    rw [hqueue]
    exact (raiseIf_eq_frame _ _ v).trans (congrArg (fun x : State => { x with
      events := (appendRequest h q waits s).2.events, statusGen := (appendRequest h q waits s).2.statusGen }) hv)
  · refine ((addEntry_raised hr 0 (q.entry h waits)).signalledIf (decide (v.queue.tailState = .waiting)) .requestWaiting
      (by decide)).iff fun n => ?_
    rw [hqueue]
    have houtcome : (appendRequest h q waits s).1.outcome = .waiting ↔ v.queue.tailState = .waiting :=
      EntryState.outcome_waiting _
    simp only [houtcome, hgen, ne_eq, not_false_eq_true, and_true, decide_eq_true_eq]
    rw [or_assoc, or_comm (a := n = 14)]
    rfl

theorem evaluated_length (t : State) (es : List Entry) : (evaluated t es).length = es.length := standbyWalk_length _ _ _

/-! The branches of a REQUEST. -/

theorem indexOfSong_first {q : Queue} {pre post : List Entry} {e : Entry} {song : Nat} (hlist : q.entries = pre ++ e :: post)
    (hpre : ∀ x ∈ pre, x.song ≠ song) (he : e.song = song) : q.indexOfSong song = some pre.length := by
  rw [Queue.indexOfSong, hlist]
  exact findIdx?_first post (fun x hx => decide_eq_false (hpre x hx)) (decide_eq_true he)

theorem indexOfSong_none {q : Queue} {song : Nat} (h : ∀ x ∈ q.entries, x.song ≠ song) : q.indexOfSong song = none :=
  findIdx?_none fun x hx => decide_eq_false (h x hx)

theorem processRequest_deny {h : Fin 16} {q : SongRequest} {s : State} (ha : filterAction s.anchor.bytes q.song h = .deny) :
    processRequest h q s = (.plain .denied, s) := by
  simp [processRequest, ha]

theorem processRequest_merge {h : Fin 16} {q : SongRequest} {s : State} {pre post : List Entry} {e : Entry}
    (ha : filterAction s.anchor.bytes q.song h ≠ .deny) (hlist : s.queue.entries = pre ++ e :: post)
    (hpre : ∀ x ∈ pre, x.song ≠ q.song) (he : e.song = q.song) :
    processRequest h q s = ({ outcome := .merged, tag := e.tag, position := pre.length + 1 }, mergeEntry pre.length e s) := by
  have hget : s.queue.entries[pre.length]? = some e := by simp [hlist]
  simp only [processRequest, ha, if_false, indexOfSong_first hlist hpre he, hget]

theorem processRequest_quota {h : Fin 16} {q : SongRequest} {s : State} (ha : filterAction s.anchor.bytes q.song h ≠ .deny)
    (hnew : ∀ x ∈ s.queue.entries, x.song ≠ q.song) (hquota : handsetQuota s.anchor.bytes ≤ s.queue.pendingCount h) :
    processRequest h q s = (.plain .quotaFull, s) := by
  simp only [processRequest, ha, if_false, indexOfSong_none hnew, hquota, if_true]

theorem processRequest_full {h : Fin 16} {q : SongRequest} {s : State} (ha : filterAction s.anchor.bytes q.song h ≠ .deny)
    (hnew : ∀ x ∈ s.queue.entries, x.song ≠ q.song) (hquota : s.queue.pendingCount h < handsetQuota s.anchor.bytes)
    (hfull : 48 ≤ s.queue.entries.length) : processRequest h q s = (.plain .queueFull, s) := by
  simp only [processRequest, ha, if_false, indexOfSong_none hnew, Nat.not_le.2 hquota, hfull, if_true]

theorem processRequest_append {h : Fin 16} {q : SongRequest} {s : State} (ha : filterAction s.anchor.bytes q.song h ≠ .deny)
    (hnew : ∀ x ∈ s.queue.entries, x.song ≠ q.song) (hquota : s.queue.pendingCount h < handsetQuota s.anchor.bytes)
    (hroom : s.queue.entries.length < 48) :
    processRequest h q s = appendRequest h q
      (decide (filterAction s.anchor.bytes q.song h = .wait) || decide ((s.handsets.records[h]).state = .held)) s := by
  simp only [processRequest, ha, if_false, indexOfSong_none hnew, Nat.not_le.2 hquota, Nat.not_le.2 hroom]

theorem processRequest_processed (h : Fin 16) (q : SongRequest) (s : State) :
    Processed s (processRequest h q s).2 (processRequest h q s).1 := by
  by_cases ha : filterAction s.anchor.bytes q.song h = .deny
  · rw [processRequest_deny ha]
    exact .refl s (by simp [Answer.plain])
  · rcases findIdx?_cases (fun e : Entry => e.song = q.song) s.queue.entries with
      ⟨-, hnew⟩ | ⟨pre, e, post, hlist, hpre, he, -, -⟩
    · rcases Nat.lt_or_ge (s.queue.pendingCount h) (handsetQuota s.anchor.bytes) with hquota | hquota
      · rcases Nat.lt_or_ge s.queue.entries.length 48 with hroom | hfull
        · rw [processRequest_append ha hnew hquota hroom]
          exact appendRequest_processed h q _ s
        · rw [processRequest_full ha hnew hquota hfull]
          exact .refl s (by simp [Answer.plain])
      · rw [processRequest_quota ha hnew hquota]
        exact .refl s (by simp [Answer.plain])
    · rw [processRequest_merge ha hlist hpre he]
      exact mergeEntry_processed _ e s _ (by simp)

theorem mergeEntry_queue {s : State} {pre post : List Entry} {e : Entry} (hlist : s.queue.entries = pre ++ e :: post) :
    (mergeEntry pre.length e s).queue =
      if e.repeats < 7 then
        { s.queue with entries := pre ++ { e with repeats := e.repeats + 1 } :: post, gen := s.queue.gen + 1 }
      else s.queue := by
  unfold mergeEntry
  split
  case isTrue => simp [putEntry, hlist]
  case isFalse => rfl

/-- What an append answers and leaves of the queue (R145). -/
theorem appendRequest_spec (h : Fin 16) (q : SongRequest) (waits : Bool) (s : State) :
    let out := appendRequest h q waits s
    out.2.queue = evaluatedQueue s { s.queue with
        entries := s.queue.entries ++ [{ q.entry h waits with tag := s.queue.freeTag }], nextTag := tagAfter s.queue.freeTag
        gen := s.queue.gen + 1 } ∧
      ∃ e, out.2.queue.entries[s.queue.entries.length]? = some e ∧ out.1.outcome = e.state.outcome ∧
        out.1.tag = s.queue.freeTag ∧ out.1.position = s.queue.entries.length + 1 := by
  intro out
  have hqueue : out.2.queue = (addEntry 0 (q.entry h waits) s).queue := by simp [out, appendRequest, answerAppend]
  have hadded : (addEntry 0 (q.entry h waits) s).queue = evaluatedQueue s { s.queue with
      entries := s.queue.entries ++ [{ q.entry h waits with tag := s.queue.freeTag }], nextTag := tagAfter s.queue.freeTag
      gen := s.queue.gen + 1 } := by
    rw [addEntry_queue]
    rfl
  have hlength : (addEntry 0 (q.entry h waits) s).queue.entries.length = s.queue.entries.length + 1 := by
    rw [hadded]
    exact (evaluated_length s _).trans List.length_append
  have hlt : s.queue.entries.length < (addEntry 0 (q.entry h waits) s).queue.entries.length := by omega
  have hlast : (addEntry 0 (q.entry h waits) s).queue.entries.getLast? =
      some (addEntry 0 (q.entry h waits) s).queue.entries[s.queue.entries.length] := by
    rw [List.getLast?_eq_getElem?, hlength]
    exact List.getElem?_eq_getElem hlt
  refine ⟨hqueue.trans hadded, (addEntry 0 (q.entry h waits) s).queue.entries[s.queue.entries.length], ?_, ?_, rfl, hlength⟩
  · rw [hqueue]
    exact List.getElem?_eq_getElem hlt
  · change (addEntry 0 (q.entry h waits) s).queue.tailState.outcome = _
    rw [Queue.tailState, hlast]

/-- What a request that is appended comes to, told of the state before its packet (R145). -/
theorem processRequest_appended {h : Fin 16} {q : SongRequest} {s u : State} (hsame : u.queue = s.queue) (hroom : u.room = s.room)
    (hanchor : u.anchor = s.anchor) (hclock : u.clock = s.clock) (ha : filterAction s.anchor.bytes q.song h ≠ .deny)
    (hnew : ∀ x ∈ s.queue.entries, x.song ≠ q.song) (hquota : s.queue.pendingCount h < handsetQuota s.anchor.bytes)
    (hfew : s.queue.entries.length < 48) :
    let out := processRequest h q u
    let waits := decide (filterAction s.anchor.bytes q.song h = .wait) || decide ((u.handsets.records[h]).state = .held)
    out.2.queue = evaluatedQueue s { s.queue with
        entries := s.queue.entries ++ [{ q.entry h waits with tag := s.queue.freeTag }], nextTag := tagAfter s.queue.freeTag
        gen := s.queue.gen + 1 } ∧
      ∃ e, out.2.queue.entries[s.queue.entries.length]? = some e ∧ out.1.outcome = e.state.outcome ∧
        out.1.tag = s.queue.freeTag ∧ out.1.position = s.queue.entries.length + 1 := by
  intro out waits
  have hout : out = appendRequest h q waits u := by
    simp only [out, waits, ← hanchor]
    exact processRequest_append (by rwa [hanchor]) (by rwa [hsame]) (by rwa [hanchor, hsame]) (by rwa [hsame])
  obtain ⟨hadded, he⟩ := appendRequest_spec h q waits u
  rw [← hout, hsame] at hadded he
  exact ⟨hadded.trans (evaluatedQueue_congr hroom hanchor hclock _), he⟩

theorem exec_request {head : PacketHead} {s : State} (hup : s.busUp = true) (hflags : head.flags.toNat ≤ 1) {f : RequestFields}
    {q : SongRequest} (hq : requestArguments f = some q) :
    exec (.request head f) s = .next (handlePacket head (some (processRequest head.handset q)) (setAssembly none s)) := by
  have hprocess : (if flagsLegal head = true then (requestArguments f).map (fun q => processRequest head.handset q) else none) =
      some (processRequest head.handset q) := by rw [flagsLegal_eq_true hflags, hq]; rfl
  simp only [exec, execRequest, handOver_of_busUp hup, requestPacket, hprocess]

theorem pendingCount_playing {q : Queue} {n : NowPlaying} (hn : q.nowPlaying = some n) (h : Fin 16) :
    q.pendingCount h = (q.entries.filter (fun e => decide (e.requester = .handset h))).length +
      if n.requester = .handset h then 1 else 0 := by
  simp only [Queue.pendingCount, hn, List.countP_eq_length_filter]

theorem pendingCount_idle {q : Queue} (hn : q.nowPlaying = none) (h : Fin 16) :
    q.pendingCount h = (q.entries.filter (fun e => decide (e.requester = .handset h))).length := by
  simp only [Queue.pendingCount, hn, List.countP_eq_length_filter, Nat.add_zero]

/-- Settles O49: the branches of the processing, each with the end that every packet has. -/
theorem requestDecidedByChecks : Obligations.RequestDecidedByChecks := by
  intro head f diff s hhandled hflags hsong1 hsong2 hdiff hkey1 hkey2 hduration1 hduration2 h action waits entry own
  let q : SongRequest :=
    { song := f.song.toNat, difficulty := diff, key := f.key.toInt, duration := f.duration.toNat, duet := decide (f.duet ≠ 0) }
  have harguments : requestArguments f = some q := by
    simp only [requestArguments, songOf_eq_some hsong1 hsong2, hdiff, keyOf_eq_some hkey1 hkey2,
      secondsOf_eq_some hduration1 hduration2, q]
  obtain ⟨u, hsame, hanchor, hclock, hroom, hstate, t, hexec, hqueue, hreplied, hframe, hconcluded, hbattery, hvote⟩ :=
    handled_processed hhandled (fun u _ _ => processRequest_processed h q u) (exec_request hhandled.1 hflags harguments)
  have haction : filterAction u.anchor.bytes q.song h = action := by rw [hanchor]
  have hnew : (∀ e ∈ s.queue.entries, e.song ≠ f.song.toNat) → ∀ x ∈ u.queue.entries, x.song ≠ q.song := by
    rw [hsame]
    exact id
  refine ⟨filterAction_ruled _ _ h, fun n hn hown => ?playing, fun hother => ?idle, t, hexec, hframe, hconcluded, hbattery, hvote,
    fun hdeny => ?deny, fun ha pre e post hlist hpre he => ?merge, fun ha hnone hquota => ?quota,
    fun ha hnone hquota hfull => ?full, fun ha hnone hquota hroom48 => ?append⟩
  case playing => rw [pendingCount_playing hn, if_pos hown]
  case idle =>
    cases hn : s.queue.nowPlaying with
    | none => exact pendingCount_idle hn h
    | some n => rw [pendingCount_playing hn, if_neg (hother n hn)]; rfl
  case deny =>
    rw [processRequest_deny (haction.trans hdeny)] at hqueue hreplied
    exact ⟨hreplied, hqueue.trans hsame⟩
  case merge =>
    have hlist' : u.queue.entries = pre ++ e :: post := by rw [hsame, hlist]
    rw [processRequest_merge (haction.trans_ne ha) hlist' hpre he] at hqueue hreplied
    rw [mergeEntry_queue hlist', hsame] at hqueue
    exact ⟨hreplied, fun hfew => hqueue.trans (if_pos hfew), fun hmany => hqueue.trans (if_neg (by omega))⟩
  case quota =>
    rw [processRequest_quota (haction.trans_ne ha) (hnew hnone) (by rw [hanchor, hsame]; exact hquota)] at hqueue hreplied
    exact ⟨hreplied, hqueue.trans hsame⟩
  case full =>
    rw [processRequest_full (haction.trans_ne ha) (hnew hnone) (by rw [hanchor, hsame]; exact hquota) (by rw [hsame]; exact hfull)]
      at hqueue hreplied
    exact ⟨hreplied, hqueue.trans hsame⟩
  case append =>
    obtain ⟨hadded, e, he, houtcome, htag, hposition⟩ :=
      processRequest_appended (q := q) hsame hroom hanchor hclock ha hnone hquota hroom48
    rw [hstate] at hadded
    rw [houtcome, htag, hposition] at hreplied
    refine ⟨hqueue.trans hadded, e, (congrArg (·.entries[s.queue.entries.length]?) hqueue).trans he, ?_⟩
    cases hst : e.state <;> rw [hst] at hreplied <;> exact hreplied

end Sys2Proof.Machine
end

section
/-! ### CANCEL, VOTE_SKIP and QUERY (R146 to R149) -/
namespace Sys2Proof.Machine

theorem processCancel_none {h : Fin 16} {song : Nat} {s : State}
    (hno : ∀ e ∈ s.queue.entries, ¬ (e.song = song ∧ e.requester = .handset h)) : processCancel h song s = (.plain .notFound, s) := by
  have hsearch : s.queue.entries.findIdx? (fun e => decide (e.song = song) && decide (e.requester = .handset h)) = none :=
    findIdx?_none fun e he => by simpa using hno e he
  simp only [processCancel, hsearch]

theorem processCancel_first {h : Fin 16} {song : Nat} {s : State} {pre post : List Entry} {e : Entry}
    (hlist : s.queue.entries = pre ++ e :: post) (hpre : ∀ x ∈ pre, ¬ (x.song = song ∧ x.requester = .handset h))
    (he : e.song = song ∧ e.requester = .handset h) :
    processCancel h song s = ({ outcome := .cancelled, tag := e.tag, position := 0 }, removeEntry pre.length s) := by
  have hsearch : s.queue.entries.findIdx? (fun e => decide (e.song = song) && decide (e.requester = .handset h)) =
      some pre.length := by
    rw [hlist]
    exact findIdx?_first post (fun x hx => by simpa using hpre x hx) (by simpa using he)
  have hget : s.queue.entries[pre.length]? = some e := by simp [hlist]
  simp only [processCancel, hsearch, hget]

theorem processCancel_processed (h : Fin 16) (song : Nat) (s : State) :
    Processed s (processCancel h song s).2 (processCancel h song s).1 := by
  rcases findIdx?_cases (fun e : Entry => e.song = song ∧ e.requester = .handset h) s.queue.entries with
    ⟨-, hno⟩ | ⟨pre, e, post, hlist, hpre, he, -, -⟩
  · rw [processCancel_none hno]
    exact .refl s (by simp [Answer.plain])
  · rw [processCancel_first hlist hpre he]
    exact removeEntry_processed _ s (by simp)

theorem processQuery_none {h : Fin 16} {s : State} (hno : ∀ e ∈ s.queue.entries, e.requester ≠ .handset h) :
    processQuery h s = (.plain .queryOk, s) := by
  have hsearch : s.queue.entries.findIdx? (fun e => decide (e.requester = .handset h)) = none :=
    findIdx?_none fun e he => decide_eq_false (hno e he)
  simp only [processQuery, hsearch]

theorem processQuery_first {h : Fin 16} {s : State} {pre post : List Entry} {e : Entry}
    (hlist : s.queue.entries = pre ++ e :: post) (hpre : ∀ x ∈ pre, x.requester ≠ .handset h) (he : e.requester = .handset h) :
    processQuery h s = ({ outcome := .queryOk, tag := e.tag, position := pre.length + 1 }, s) := by
  have hsearch : s.queue.entries.findIdx? (fun e => decide (e.requester = .handset h)) = some pre.length := by
    rw [hlist]
    exact findIdx?_first post (fun x hx => decide_eq_false (hpre x hx)) (decide_eq_true he)
  have hget : s.queue.entries[pre.length]? = some e := by simp [hlist]
  simp only [processQuery, hsearch, hget]

theorem processQuery_processed (h : Fin 16) (s : State) : Processed s (processQuery h s).2 (processQuery h s).1 := by
  rcases findIdx?_cases (fun e : Entry => e.requester = .handset h) s.queue.entries with ⟨-, hno⟩ | ⟨pre, e, post, hlist, hpre, he, -, -⟩
  · rw [processQuery_none hno]
    exact .refl s (by simp [Answer.plain])
  · rw [processQuery_first hlist hpre he]
    exact .refl s (by simp)

/-- A vote counts while the song it names is in progress (R147). -/
def VoteValid (s : State) (song : Nat) : Prop :=
  (s.clock.state = .armed ∨ s.clock.state = .running ∨ s.clock.state = .stalled) ∧ s.clock.song = song

theorem voteValid_iff (s : State) (song : Nat) :
    (s.clock.state.votable && decide (song = s.clock.song)) = true ↔ VoteValid s song := by
  rw [Bool.and_eq_true, votable_iff, decide_eq_true_iff, VoteValid, eq_comm (a := song)]

theorem VoteValid.congr {s u : State} (h : u.clock = s.clock) (song : Nat) : VoteValid u song ↔ VoteValid s song := by
  rw [VoteValid, h, VoteValid]

theorem processVote_stale {h : Fin 16} {song : Nat} {s : State} (hv : ¬ VoteValid s song) :
    processVote h song s = (.plain .voteStale, s) := by
  rw [processVote, if_neg (mt (voteValid_iff s song).1 hv)]

theorem processVote_again {h : Fin 16} {song : Nat} {s : State} (hv : VoteValid s song) (hr : (s.handsets.records[h]).vote = true) :
    processVote h song s = (.plain .voted, s) := by
  rw [processVote, if_pos ((voteValid_iff s song).2 hv), if_pos hr]

theorem processVote_fresh {h : Fin 16} {song : Nat} {s : State} (hv : VoteValid s song) (hr : (s.handsets.records[h]).vote = false) :
    processVote h song s = (.plain .voted, skipTest (putHandset h { s.handsets.records[h] with vote := true } s)) := by
  rw [processVote, if_pos ((voteValid_iff s song).2 hv), if_neg (ne_true_of_eq_false hr)]

theorem Concluded.of_iff {s t : State} {head : PacketHead} {v w : Prop} (h : Concluded s t head v) (hvw : v ↔ w) :
    Concluded s t head w := by
  rwa [← propext hvw]

theorem exec_cancel {head : PacketHead} {s : State} (hup : s.busUp = true) (hflags : head.flags.toNat ≤ 1) {song : BitVec 24}
    (h1 : 1 ≤ song.toNat) (h2 : song.toNat ≤ 999999) :
    exec (.cancel head song) s = .next (handlePacket head (some (processCancel head.handset song.toNat)) (setAssembly none s)) := by
  simp only [exec, execCancel, handOver_of_busUp hup, cancelPacket, flagsLegal_eq_true hflags, songOf_eq_some h1 h2, if_true,
    Option.map_some]

theorem exec_voteSkip {head : PacketHead} {s : State} (hup : s.busUp = true) (hflags : head.flags.toNat ≤ 1) {song : BitVec 24}
    (h1 : 1 ≤ song.toNat) (h2 : song.toNat ≤ 999999) :
    exec (.voteSkip head song) s = .next (handlePacket head (some (processVote head.handset song.toNat)) (setAssembly none s)) := by
  simp only [exec, execVoteSkip, handOver_of_busUp hup, votePacket, flagsLegal_eq_true hflags, songOf_eq_some h1 h2, if_true,
    Option.map_some]

theorem exec_query {head : PacketHead} {s : State} (hup : s.busUp = true) (hflags : head.flags.toNat ≤ 1) :
    exec (.query head) s = .next (handlePacket head (some (processQuery head.handset)) (setAssembly none s)) := by
  simp only [exec, execQuery, handOver_of_busUp hup, queryPacket, flagsLegal_eq_true hflags, if_true]

theorem processVote_queue (h : Fin 16) (song : Nat) (s : State) : (processVote h song s).2.queue = s.queue := by
  unfold processVote
  split
  · split <;> simp
  · rfl

theorem processVote_valid (h : Fin 16) {song : Nat} {s : State} (hv : VoteValid s song) :
    (processVote h song s).1 = .plain .voted := by
  cases hr : (s.handsets.records[h]).vote with
  | false => rw [processVote_fresh hv hr]
  | true => rw [processVote_again hv hr]

/-- A vote that adds nothing only answers. -/
theorem processVote_processed {h : Fin 16} {song : Nat} {s : State}
    (hold : ¬ (VoteValid s song ∧ (s.handsets.records[h]).vote = false)) :
    Processed s (processVote h song s).2 (processVote h song s).1 := by
  by_cases hv : VoteValid s song
  · rw [processVote_again hv (Bool.of_not_eq_false fun hr => hold ⟨hv, hr⟩)]
    exact .refl s (by simp [Answer.plain])
  · rw [processVote_stale hv]
    exact .refl s (by simp [Answer.plain])

theorem handled_vote_fresh {head : PacketHead} {s : State} (hh : Handled s head) {song : Nat} (hv : VoteValid s song)
    (hr : (s.handsets.records[head.handset]).vote = false) {c : Instr}
    (hc : exec c s = .next (handlePacket head (some (processVote head.handset song)) (setAssembly none s))) :
    ∃ t, exec c s = .next t ∧ t.queue = s.queue ∧ Replied s t head .voted 0 0 ∧ PacketFrame s t head.handset ∧
      Concluded s t head True ∧ (t.handsets.records[head.handset]).lowBattery = decide (head.flags ≠ 0) ∧
      (t.handsets.records[head.handset]).vote = true := by
  have hpacket := handlePacket_handled hh (some (processVote head.handset song))
  obtain ⟨-, -, hst, -⟩ := hh
  obtain ⟨hsame, -, hclock, -⟩ := arrivedState_frame s head.handset
  have harrived := heard_arrival head.handset hst
  have hvote : ((arrivedState s head.handset).handsets.records[head.handset]).vote = false := by rw [arrivedState_record hst, hr]
  have hprocess := processVote_fresh ((VoteValid.congr hclock song).2 hv) hvote
  rw [hr] at harrived
  generalize arrivedState s head.handset = u at *
  have hheard := (harrived.vote hr).battery
  have hqueue : (copyBattery head (skipTest (putHandset head.handset { u.handsets.records[head.handset] with vote := true } u))).queue =
      s.queue := by simpa using hsame
  obtain ⟨htqueue, hrest⟩ := hheard.conclude (a := .plain .voted) hst (fun n => by rw [hqueue]; simp [Answer.plain])
  rw [hc, hpacket]
  simp only [hprocess]
  exact ⟨_, rfl, htqueue.trans hqueue, hrest⟩

/-- A handled VOTE_SKIP, by the song it names and the vote that stands. -/
theorem handled_vote {head : PacketHead} {s : State} (hh : Handled s head) (song : Nat) {c : Instr}
    (hc : exec c s = .next (handlePacket head (some (processVote head.handset song)) (setAssembly none s))) :
    ∃ t, exec c s = .next t ∧ PacketFrame s t head.handset ∧ t.queue = s.queue ∧
      Concluded s t head (VoteValid s song ∧ (s.handsets.records[head.handset]).vote = false) ∧
      (t.handsets.records[head.handset]).lowBattery = decide (head.flags ≠ 0) ∧
      (VoteValid s song → Replied s t head .voted 0 0 ∧ (t.handsets.records[head.handset]).vote = true) ∧
      (¬ VoteValid s song → Replied s t head .voteStale 0 0 ∧
        (t.handsets.records[head.handset]).vote = (s.handsets.records[head.handset]).vote) := by
  by_cases hfresh : VoteValid s song ∧ (s.handsets.records[head.handset]).vote = false
  · obtain ⟨hv, hr⟩ := hfresh
    obtain ⟨t, hexec, hqueue, hreplied, hframe, hconcluded, hbattery, hvote⟩ := handled_vote_fresh hh hv hr hc
    exact ⟨t, hexec, hframe, hqueue, hconcluded.of_iff (by simp only [hv, hr, and_self]), hbattery, fun _ => ⟨hreplied, hvote⟩,
      fun hstale => absurd hv hstale⟩
  · obtain ⟨u, hsame, -, hclock, -, -, t, hexec, hqueue, hreplied, hframe, hconcluded, hbattery, hvote⟩ :=
      handled_processed hh (fun u hclock hvote => processVote_processed (by rwa [VoteValid.congr hclock, hvote])) hc
    refine ⟨t, hexec, hframe, hqueue.trans ((processVote_queue _ _ u).trans hsame), hconcluded.of_iff (iff_of_false id hfresh),
      hbattery, fun hv => ?_, fun hv => ?_⟩
    · rw [processVote_valid _ ((VoteValid.congr hclock song).2 hv)] at hreplied
      exact ⟨hreplied, hvote.trans (Bool.of_not_eq_false fun hr => hfresh ⟨hv, hr⟩)⟩
    · rw [processVote_stale (mt (VoteValid.congr hclock song).1 hv)] at hreplied
      exact ⟨hreplied, hvote⟩

/-- Settles O50: the first entry that a search finds, or none, decides CANCEL and QUERY; the song named decides VOTE_SKIP. -/
theorem cancelVoteAndQuery : Obligations.CancelVoteAndQuery := by
  intro head song s hhandled hflags hsong1 hsong2 h own valid record
  refine ⟨?cancel, handled_vote hhandled song.toNat (exec_voteSkip hhandled.1 hflags hsong1 hsong2), ?query⟩
  case cancel =>
    obtain ⟨u, hsame, hanchor, hclock, hroom, -, t, hexec, hqueue, hreplied, hframe, hconcluded, hbattery, hvote⟩ :=
      handled_processed hhandled (fun u _ _ => processCancel_processed h song.toNat u) (exec_cancel hhandled.1 hflags hsong1 hsong2)
    refine ⟨t, hexec, hframe, hconcluded, hbattery, hvote, fun pre e post hlist hpre he => ?_, fun hno => ?_⟩
    · have hlist' : u.queue.entries = pre ++ e :: post := by rw [hsame, hlist]
      rw [processCancel_first hlist' hpre he] at hqueue hreplied
      rw [removeEntry_queue, hsame, hlist, List.eraseIdx_append_of_length_le (Nat.le_refl _), Nat.sub_self] at hqueue
      exact ⟨hqueue.trans (evaluatedQueue_congr hroom hanchor hclock _), hreplied⟩
    · rw [processCancel_none (by rw [hsame]; exact hno)] at hqueue hreplied
      exact ⟨hqueue.trans hsame, hreplied⟩
  case query =>
    obtain ⟨u, hsame, -, -, -, -, t, hexec, hqueue, hreplied, hframe, hconcluded, hbattery, hvote⟩ :=
      handled_processed hhandled (fun u _ _ => processQuery_processed h u) (exec_query hhandled.1 hflags)
    have hkept : (processQuery h u).2 = u := by
      unfold processQuery
      split
      · rfl
      · split <;> rfl
    refine ⟨t, hexec, hframe, hqueue.trans ((congrArg _ hkept).trans hsame), hconcluded, hbattery, hvote, fun pre e post hlist hpre he => ?_, fun hno => ?_⟩
    · rwa [processQuery_first (by rw [hsame, hlist]) hpre he] at hreplied
    · rwa [processQuery_none (by rw [hsame]; exact hno)] at hreplied

end Sys2Proof.Machine
end

section
/-! The beats whose data a block takes: tables, strips, the anchor page, the intake and the parser (sections 1.3, 2.1, 4.1, 7.1, 8.1). -/

namespace Sys2Proof.Machine

/-! ### From the bus to the blocks (R9) -/

theorem TakesData.exec_eq {s u : State} {b : Beat} {d : Data} {en : Enables} (h : TakesData s b d en u) :
    exec (.writeBeatDataTaken d en) s = .next (deliverBeat b d en u) := by
  obtain ⟨hheld, -⟩ := h.frame
  have hbus : (deliverBeat b d en u).bus = u.bus := (deliverBeat_inner b d en u).bus
  calc exec (.writeBeatDataTaken d en) s
    _ = .next (takeBeat d en s) := rfl
    _ = .next (deliverBeat b d en u) := by rw [takeBeat_eq h, acceptHeld_none (by rw [hbus, hheld])]

theorem TakesData.exec_snoop {s u : State} {b : Beat} {d : Data} {en : Enables} {dest : Dest} (h : TakesData s b d en u)
    (ht : b.treatment = .snoop dest) : exec (.writeBeatDataTaken d en) s = .next (deliver dest b.addr d en u) := by
  rw [h.exec_eq, deliverBeat, ht]

theorem TakesData.exists_bus {s u : State} {b : Beat} {d : Data} {en : Enables} (h : TakesData s b d en u) :
    ∃ x, u = { s with bus := x } := ⟨u.bus, h.frame.2⟩

/-! ### Tables (R62, R111) -/

theorem Mem.read_writeBeat {m : Mem} (hm : m.wf = true) (base : Nat) (d : Data) (en : Enables) (p : Nat) :
    (m.writeBeat base d en).read p =
      if base ≤ p ∧ p < base + 8 ∧ en.getLsbD (p - base) = true then d.extractLsb' (8 * (p - base)) 8 else m.read p :=
  Mem.read_writeWhere hm base d _ p

/-- Settles O11: the slot and the byte of each table make the offset within its 8 KiB. -/
theorem writeBeatsReachTheirTables : Obligations.WriteBeatsReachTheirTables := by
  refine ⟨fun s u b d en h hplain => ?plain, fun s u b d en w h ht hoff hwf => ?timeline, fun s u b d en w h ht hoff hwf => ?melody⟩
  case plain =>
    rw [h.exec_eq, deliverBeat]
    split
    case h_1 dest hdest => exact absurd hdest (hplain dest)
    all_goals rfl
  case timeline =>
    obtain ⟨-, hu⟩ := h.frame
    have hbase : 16 * (w.offset b.addr / 16 % 512) + w.offset b.addr % 16 = w.offset b.addr % 8192 := by omega
    refine ⟨s.lyrics.timeline.writeBeat (w.offset b.addr % 8192) d en, ?_, Mem.read_writeBeat hwf _ d en⟩
    rw [h.exec_snoop ht, deliver, timelineBeat, hbase, hu]
  case melody =>
    obtain ⟨-, hu⟩ := h.frame
    have hbase : 8 * (w.offset b.addr / 8 % 1024) = w.offset b.addr % 8192 := by omega
    refine ⟨s.melody.writeBeat (w.offset b.addr % 8192) d en, ?_, Mem.read_writeBeat hwf _ d en⟩
    rw [h.exec_snoop ht, deliver, melodyBeat, hbase, hu]

/-! ### Strips (R57 to R60) -/

/-- The bytes of a strip beat that are stored. -/
@[reducible] def StripStores (m : Mem) (p : Nat) (en : Enables) (i : Nat) : Prop :=
  i < 8 ∧ en.getLsbD i = true ∧ p + i < 64 + (frameWidth m * lineHeight m + 3) / 4

theorem stripStores_iff (m : Mem) (p : Nat) (en : Enables) (i : Nat) :
    StripStores m p en i ↔ i < 8 ∧ storesByte p (coverageLimit m) en i = true := by
  rw [StripStores, storesByte, Bool.and_eq_true, decide_eq_true_iff]
  exact Iff.rfl

theorem any_storesByte_eq_false (m : Mem) (p : Nat) (en : Enables) :
    (List.range 8).any (storesByte p (coverageLimit m) en) = false ↔ ∀ i, ¬ StripStores m p en i := by
  simp only [List.any_eq_false, List.mem_range, stripStores_iff, not_and]

theorem stripBeat_eq {f p : Nat} {k : Fin 4} (hf : f % 262144 = 65536 * k.val + p) (hp : p < 65536) (d : Data) (en : Enables)
    (s : State) :
    stripBeat f d en s =
      let stored := stripStored k p d (storesByte p (coverageLimit s.anchor.bytes) en) s
      if (s.lyrics.strips[k]).state = .shown ∨ (List.range 8).any (storesByte p (coverageLimit s.anchor.bytes) en) = false then s
      else if submits p d en then runCompletionCheck k stored else stored := by
  have hbuffer : Fin.ofNat 4 (f / 65536) = k := Fin.ext (by change f / 65536 % 4 = k.val; omega)
  have hplace : f % 65536 = p := by omega
  simp only [stripBeat, hbuffer, hplace, stripStored]

theorem Mem.read_stored {m : Mem} (hm : m.wf = true) (x : Mem) (p : Nat) (d : Data) (en : Enables) (q : Nat) :
    (m.writeWhere p d (storesByte p (coverageLimit x) en)).read q =
      if p ≤ q ∧ StripStores x p en (q - p) then d.extractLsb' (8 * (q - p)) 8 else m.read q := by
  rw [Mem.read_writeWhere hm]
  refine ite_congr (propext ?_) (fun _ => rfl) (fun _ => rfl)
  rw [stripStores_iff]
  constructor
  · rintro ⟨h1, h2, h3⟩; exact ⟨h1, by omega, h3⟩
  · rintro ⟨h1, h2, h3⟩; exact ⟨h1, by omega, h3⟩

theorem submits_iff (p : Nat) (d : Data) (en : Enables) :
    submits p d en = true ↔ p = 56 ∧ en.getLsbD 0 = true ∧ d.extractLsb' 0 8 ≠ 0 := by
  simp only [submits, Bool.and_eq_true, decide_eq_true_eq, and_assoc]
  exact Iff.rfl

/-- The completion check of a buffer just stored (R60). -/
theorem runCompletionCheck_stored (k : Fin 4) (buf : StripBuf) (s : State) :
    let become := fun st => { s.lyrics with strips := (setAt s.lyrics.strips k { buf with state := st }) }
    runCompletionCheck k { s with lyrics := { s.lyrics with strips := setAt s.lyrics.strips k buf } } =
      if (Lyrics.complete { s.lyrics with strips := setAt s.lyrics.strips k buf } k) = true then { s with lyrics := become .ready }
      else signalled 8 { s with lyrics := become .free } := by
  intro become
  have hset (st : StripState) : Lyrics.setState { s.lyrics with strips := setAt s.lyrics.strips k buf } k st = become st := by
    simp only [Lyrics.setState, setAt_setAt, setAt_self, become]
  simp only [runCompletionCheck, hset, raise_eq]
  rfl

/-- A stored header byte leaves the buffer LOADING. -/
theorem stripStored_header {p : Nat} (hp : p < 64) (k : Fin 4) (d : Data) (sel : Nat → Bool) (s : State) :
    stripStored k p d sel s = { s with
      lyrics := { s.lyrics with
        strips := (setAt s.lyrics.strips k { state := .loading, bytes := (s.lyrics.strips[k]).bytes.writeWhere p d sel }) } } := by
  have hstate : storedState (s.lyrics.strips[k]).state p = .loading := if_neg (by omega)
  rw [stripStored, hstate]

/-- Settles O12: a beat that stores is `stripStored`, and a submission runs the check on it. -/
theorem stripBeatsStoreAndSubmit : Obligations.StripBeatsStoreAndSubmit := by
  refine ⟨fun s u b d en w k p h ht hoff hp hp8 hwf => ?_, fun s u b d en w k h ht hoff hwf hhidden hflag hnonzero => ?_⟩
  · intro limit stored
    have hexec := h.exec_snoop ht
    obtain ⟨x, rfl⟩ := h.exists_bus
    rw [deliver, stripBeat_eq hoff hp] at hexec
    refine ⟨fun hnone => ?_, fun hhidden hsome hquiet => ?_⟩
    · rw [hexec, if_pos (hnone.imp id (any_storesByte_eq_false _ p en).2)]
    · have hstores : ¬ (List.range 8).any (storesByte p (coverageLimit s.anchor.bytes) en) = false := fun hany =>
        hsome.elim ((any_storesByte_eq_false _ p en).1 hany)
      rw [if_neg (not_or.2 ⟨hhidden, hstores⟩), if_neg (mt (submits_iff p d en).1 hquiet)] at hexec
      exact ⟨_, hexec, Mem.read_stored hwf _ p d en⟩
  · have hexec := h.exec_snoop ht
    obtain ⟨x, rfl⟩ := h.exists_bus
    rw [deliver, stripBeat_eq hoff (by decide)] at hexec
    have hstores : ¬ (List.range 8).any (storesByte 56 (coverageLimit s.anchor.bytes) en) = false := fun hany =>
      (any_storesByte_eq_false _ 56 en).1 hany 0 ⟨by decide, hflag, by omega⟩
    rw [if_neg (not_or.2 ⟨hhidden, hstores⟩), if_pos ((submits_iff 56 d en).2 ⟨rfl, hflag, hnonzero⟩),
      stripStored_header (by decide)] at hexec
    refine ⟨(s.lyrics.strips[k]).bytes.writeWhere 56 d (storesByte 56 (coverageLimit s.anchor.bytes) en), fun q => ?_, fun hpass => ?_, fun hfail => ?_⟩
    · rw [Mem.read_stored hwf]
      refine ite_congr (propext ?_) (fun _ => rfl) (fun _ => rfl)
      unfold StripStores
      constructor
      · rintro ⟨h1, h2, h3, h4⟩; exact ⟨h1, by omega, h3⟩
      · rintro ⟨h1, h2, h3⟩; exact ⟨h1, by omega, h3, by omega⟩
    · rw [hexec]
      refine congrArg Host.Outcome.next ((runCompletionCheck_stored k _ _).trans (if_pos ?_))
      exact (Lyrics.complete_iff _ k).2 hpass
    · rw [hexec]
      refine congrArg Host.Outcome.next ((runCompletionCheck_stored k _ _).trans (if_neg ?_))
      exact mt (Lyrics.complete_iff _ k).1 hfail

end Sys2Proof.Machine
end

section
/-! The fields of records and packets, and the beats that complete one (sections 2.1, 8.1). -/

namespace Sys2Proof.Machine

/-! ### Little-endian fields of a data beat -/

theorem leValue_dataBytes (d : Data) (n i : Nat) :
    leValue ((List.range' i n).map (dataByte d)) = d.toNat / 2 ^ (8 * i) % 2 ^ (8 * n) := by
  induction n generalizing i with
  | zero => simp [leValue, Nat.mod_one]
  | succ n ih =>
    have hbyte : (dataByte d i).toNat = d.toNat / 2 ^ (8 * i) % 256 := by
      simp [dataByte, Nat.shiftRight_eq_div_pow]
    have hnext : d.toNat / 2 ^ (8 * (i + 1)) = d.toNat / 2 ^ (8 * i) / 256 := by
      rw [Nat.div_div_eq_div_mul, Nat.mul_succ, Nat.pow_add]
    have hpow : 2 ^ (8 * (n + 1)) = 256 * 2 ^ (8 * n) := by rw [Nat.mul_succ, Nat.pow_add, Nat.mul_comm]
    rw [List.range'_succ, List.map_cons, leValue, ih, hbyte, hnext, hpow, ← Nat.mod_mul]

theorem take_drop_dataBytes (d : Data) {i n : Nat} (h : i + n ≤ 8) :
    ((dataBytes d).drop i).take n = (List.range' i n).map (dataByte d) := by
  have hrange : (List.range 8).drop i = List.range' i n ++ List.range' (i + n) (8 - i - n) := by
    rw [List.range_eq_range', List.drop_range', Nat.zero_add, Nat.mul_one, List.range'_append_1]
    congr 1
    omega
  rw [dataBytes, ← List.map_drop, ← List.map_take, hrange, List.take_left' (by simp)]

theorem leValue_field (d : Data) {i n : Nat} (h : i + n ≤ 8) :
    leValue (((dataBytes d).drop i).take n) = (d.extractLsb' (8 * i) (8 * n)).toNat := by
  rw [take_drop_dataBytes d h, leValue_dataBytes, BitVec.extractLsb'_toNat, Nat.shiftRight_eq_div_pow]

theorem dataBytes_length (d : Data) : (dataBytes d).length = 8 := by simp [dataBytes]

theorem recordField_first (b0 b1 : Data) {i n : Nat} (h : i + n ≤ 8) :
    recordField b0 b1 i n = (b0.extractLsb' (8 * i) (8 * n)).toNat := by
  have hfront : ((dataBytes b0 ++ dataBytes b1).drop i).take n = ((dataBytes b0).drop i).take n := by
    rw [List.drop_append_of_le_length (by rw [dataBytes_length]; omega),
      List.take_append_of_le_length (by rw [List.length_drop, dataBytes_length]; omega)]
  rw [recordField, hfront, leValue_field b0 h]

theorem recordField_second (b0 b1 : Data) {i n : Nat} (hi : 8 ≤ i) (h : i + n ≤ 16) :
    recordField b0 b1 i n = (b1.extractLsb' (8 * (i - 8)) (8 * n)).toNat := by
  have hback : (dataBytes b0 ++ dataBytes b1).drop i = (dataBytes b1).drop (i - 8) := by
    rw [List.drop_append, List.drop_of_length_le (by rw [dataBytes_length]; exact hi), dataBytes_length, List.nil_append]
  rw [recordField, hback, leValue_field b1 (by omega)]

/-! ### The second beat of a record (R23 to R27, R175) -/

theorem songLoadArgs_eq (b0 b1 : Data) : songLoadArgs b0 b1 =
    { source := b0.extractLsb' 16 8, partMap := b0.extractLsb' 24 8, duration := b0.extractLsb' 32 32
      song := b1.extractLsb' 0 24, difficulty := b1.extractLsb' 24 8, key := b1.extractLsb' 32 8
      floorNote := b1.extractLsb' 40 8, ceilNote := b1.extractLsb' 48 8 } := by
  simp (disch := decide) only [songLoadArgs, recordField_first, recordField_second, Nat.reduceMul, Nat.reduceSub,
    BitVec.ofNat_toNat, BitVec.setWidth_eq]

theorem insertArgs_eq (b0 b1 : Data) : insertArgs b0 b1 =
    { song := b0.extractLsb' 16 24, position := b0.extractLsb' 40 8, duration := b0.extractLsb' 48 16
      difficulty := b1.extractLsb' 0 8, key := b1.extractLsb' 8 8, duet := b1.extractLsb' 16 8, pin := b1.extractLsb' 24 8 } := by
  simp (disch := decide) only [insertArgs, recordField_first, recordField_second, Nat.reduceMul, Nat.reduceSub,
    BitVec.ofNat_toNat, BitVec.setWidth_eq]

theorem ofNat_recordField_first (b0 b1 : Data) {w i n : Nat} (hw : w = 8 * n) (h : i + n ≤ 8) :
    BitVec.ofNat w (recordField b0 b1 i n) = b0.extractLsb' (8 * i) w := by
  rw [recordField_first b0 b1 h, ← hw, BitVec.ofNat_toNat, BitVec.setWidth_eq]

theorem ofNat_recordField_second (b0 b1 : Data) {w i n : Nat} (hw : w = 8 * n) (hi : 8 ≤ i) (h : i + n ≤ 16) :
    BitVec.ofNat w (recordField b0 b1 i n) = b1.extractLsb' (8 * (i - 8)) w := by
  rw [recordField_second b0 b1 hi h, ← hw, BitVec.ofNat_toNat, BitVec.setWidth_eq]

/-- A row of the command table that hands over the operation its code names. -/
theorem exec_row {c : Instr} {slot : CmdSlot} {code : Byte} {b0 b1 : Data} {op : State → CmdOutcome × State} {s : State}
    (hup : s.busUp = true) (hrow : exec c s = handOver (takeCommand slot code op) s) (hop : commandOp code b0 b1 = op) :
    exec c s = .next (takeCommand slot code (commandOp code b0 b1) s) := by
  rw [hrow, handOver_of_busUp hup, hop]

theorem recordRow_unknown (slot : CmdSlot) {code : Byte} (h : code ∉ commandCodes) (b0 b1 : Data) :
    recordRow slot code b0 b1 = .unknown slot code ∧ commandOp code b0 b1 = unknownOp := by
  simp only [commandCodes, List.mem_cons, List.not_mem_nil, or_false, not_or] at h
  obtain ⟨hack, hload, hstart, hseek, hstop, hboard, hinsert, hremove, hmove, hconfirm, hpin, hrelease, hopen, hextend, hclose⟩ := h
  rw [recordRow, commandOp]
  repeat rw [if_neg (by assumption)]
  exact ⟨rfl, rfl⟩

theorem exec_recordRow (slot : CmdSlot) {code : Byte} (hcode : code ≠ 0) (b0 b1 : Data) {s : State} (hup : s.busUp = true) :
    exec (recordRow slot code b0 b1) s = .next (takeCommand slot code (commandOp code b0 b1) s) := by
  have hbyte2 := ofNat_recordField_first b0 b1 (w := 8) (i := 2) (n := 1) rfl (by decide)
  have hbyte3 := ofNat_recordField_first b0 b1 (w := 8) (i := 3) (n := 1) rfl (by decide)
  have hhalf2 := ofNat_recordField_first b0 b1 (w := 16) (i := 2) (n := 2) rfl (by decide)
  have hword4 := ofNat_recordField_first b0 b1 (w := 32) (i := 4) (n := 4) rfl (by decide)
  have hhalf8 := ofNat_recordField_second b0 b1 (w := 16) (i := 8) (n := 2) rfl (by decide) (by decide)
  by_cases hknown : code ∈ commandCodes
  · simp only [commandCodes, List.mem_cons, List.not_mem_nil, or_false] at hknown
    rcases hknown with rfl | rfl | rfl | rfl | rfl | rfl | rfl | rfl | rfl | rfl | rfl | rfl | rfl | rfl | rfl
    · exact exec_row hup rfl (congrArg ackOp hhalf2)
    · exact exec_row hup rfl (congrArg songLoadOp (songLoadArgs_eq b0 b1))
    · exact exec_row (op := songStartOp) hup rfl rfl
    · exact exec_row hup rfl (congrArg₂ songSeekOp hword4 hhalf8)
    · exact exec_row (op := songStopOp) hup rfl rfl
    · exact exec_row (op := clearBoardOp) hup rfl rfl
    · exact exec_row hup rfl (congrArg queueInsertOp (insertArgs_eq b0 b1))
    · exact exec_row hup rfl (congrArg queueRemoveOp hbyte2)
    · exact exec_row hup rfl (congrArg₂ queueMoveOp hbyte2 hbyte3)
    · exact exec_row hup rfl (congrArg queueConfirmOp hbyte2)
    · exact exec_row hup rfl (congrArg₂ queuePinOp hbyte2 hbyte3)
    · exact exec_row hup rfl (congrArg handsetReleaseOp hbyte2)
    · exact exec_row hup rfl (congrArg roomOpenOp hword4)
    · exact exec_row hup rfl (congrArg roomExtendOp hword4)
    · exact exec_row (op := roomCloseOp) hup rfl rfl
  · obtain ⟨hrow, hop⟩ := recordRow_unknown slot hknown b0 b1
    rw [hrow]
    exact exec_row hup (if_pos ((unknownCode_iff code).2 ⟨hcode, hknown⟩)) hop

/-- Settles O16: a beat of another slot or a partial one is refused, and a whole one hands the record over by its code. -/
theorem commandBeatOneDecides : Obligations.CommandBeatOneDecides := by
  intro s u b d en w h htakes hup ht hone hpending offset slot code same
  have hexec := htakes.exec_snoop ht
  obtain ⟨x, rfl⟩ := htakes.exists_bus
  have hfar : ¬ w.offset b.addr % 16 = 0 := by omega
  have hslot : slotOffset (w.offset b.addr) = offset := slotOffset_of_beat_one hone
  simp only [deliver, commandBeat, if_neg hfar, hpending, hslot] at hexec
  refine ⟨fun hother => ?_, fun hsame hpartial => ?_, fun hsame hwhole hzero => ?_, fun hsame hwhole hnonzero => ?_⟩
  · rw [hexec, if_neg hother, refuseIncomplete_eq_afterCommand]
  · rw [hexec, if_pos hsame, if_neg hpartial, refuseIncomplete_eq_afterCommand]
    rfl
  · rw [hexec, if_pos hsame, if_pos hwhole, takeRecord]
    exact congrArg Host.Outcome.next (if_pos hzero)
  · rw [hexec, if_pos hsame, if_pos hwhole, takeRecord]
    exact (congrArg Host.Outcome.next (if_neg hnonzero)).trans
      (exec_recordRow (s := { s with bus := x }) slot hnonzero h.data d hup).symm

/-! ### The beats of a packet (R132 to R134) -/

theorem packetSum_toNat (bs : List Byte) : (packetSum bs).toNat = (bs.map BitVec.toNat).sum % 256 := by
  have hfold (x : Byte) : (bs.foldl (· + ·) x).toNat = (x.toNat + (bs.map BitVec.toNat).sum) % 256 := by
    induction bs generalizing x with
    | nil => exact (Nat.mod_eq_of_lt x.isLt).symm
    | cons y bs ih => rw [List.foldl_cons, ih, BitVec.toNat_add, List.map_cons, List.sum_cons]; omega
  rw [packetSum, hfold]
  simp

/-- The bytes of a packet's four beats. -/
def packetBytes (b0 b1 b2 b3 : Data) : List Byte := [b0, b1, b2, b3].flatMap dataBytes

theorem packetSong_eq (b0 b1 b2 b3 : Data) : packetSong (packetBytes b0 b1 b2 b3) = b0.extractLsb' 32 24 := by
  have hfield : packetSong (packetBytes b0 b1 b2 b3) = BitVec.ofNat 24 (recordField b0 b1 4 3) := rfl
  exact hfield.trans (ofNat_recordField_first b0 b1 (i := 4) (n := 3) rfl (by decide))

theorem packetRequest_eq (b0 b1 b2 b3 : Data) : packetRequest (packetBytes b0 b1 b2 b3) =
    { song := b0.extractLsb' 32 24, difficulty := b0.extractLsb' 56 8, key := b1.extractLsb' 0 8
      duration := b1.extractLsb' 8 16, duet := b1.extractLsb' 24 8 } := by
  have hduration : BitVec.ofNat 16 (leValue (((packetBytes b0 b1 b2 b3).drop 9).take 2)) = b1.extractLsb' 8 16 :=
    ofNat_recordField_second b0 b1 (i := 9) (n := 2) rfl (by decide) (by decide)
  rw [packetRequest, packetSong_eq, hduration]
  rfl

/-- A check-valid packet, handed over as the row of its kind. -/
theorem exec_packetKind {b0 b1 b2 b3 : Data} {s : State} (hup : s.busUp = true) (hkind : b0.extractLsb' 0 8 ≠ 0)
    (hgood : ¬ (packetSum (packetBytes b0 b1 b2 b3) ≠ 0 ∨ 15 < (b0.extractLsb' 8 8).toNat)) :
    exec (packetRow b0 b1) s = .next (completePacket (packetBytes b0 b1 b2 b3) (setAssembly none s)) := by
  have hcomplete : completePacket (packetBytes b0 b1 b2 b3) (setAssembly none s) = _ := (if_neg hkind).trans (if_neg hgood)
  rw [hcomplete, packetRow]
  simp only [packetSong_eq, packetRequest_eq]
  have hbyte (i : Nat) (hi : i < 8) : packetByte (packetBytes b0 b1 b2 b3) i = b0.extractLsb' (8 * i) 8 := by
    interval_cases i <;> rfl
  simp only [hbyte 0 (by decide), hbyte 1 (by decide), hbyte 2 (by decide), hbyte 3 (by decide), Nat.reduceMul]
  generalize b0.extractLsb' 0 8 = kind at hkind
  split
  case isTrue => exact handOver_of_busUp hup (fun s => requestPacket _ _ (setAssembly none s))
  case isFalse h1 =>
    split
    case isTrue => exact handOver_of_busUp hup (fun s => cancelPacket _ _ (setAssembly none s))
    case isFalse h2 =>
      split
      case isTrue => exact handOver_of_busUp hup (fun s => votePacket _ _ (setAssembly none s))
      case isFalse h3 =>
        split
        case isTrue => exact handOver_of_busUp hup (fun s => queryPacket _ (setAssembly none s))
        case isFalse h4 =>
          have hunknown : ¬ kind.toNat < 5 := by bv_omega
          exact (if_neg hunknown).trans (handOver_of_busUp hup (fun s => unknownPacket _ (setAssembly none s)))

/-- A RECEIVE beat with no packet in progress. -/
theorem receiveBeat_none {s : State} (hnone : s.parser.assembly = none) (entry : Fin 16) (f : Nat) (d : Data) (en : Enables) :
    receiveBeat entry f d en s =
      if f % 32 / 8 = 0 ∧ en = 0xFF then
        setAssembly (some { entry := entry, slot := BitVec.ofNat 32 (32 * (f / 32)), beats := [d] }) s
      else s := by
  rw [receiveBeat, hnone, Nat.mul_comm (f / 32)]
  exact if_congr (by rw [Bool.and_eq_true, decide_eq_true_iff, decide_eq_true_iff, and_comm]) rfl rfl

/-- A RECEIVE beat with a packet in progress. -/
theorem receiveBeat_some {s : State} {a : Assembly} (hsome : s.parser.assembly = some a) (entry : Fin 16) (f : Nat) (d : Data)
    (en : Enables) :
    receiveBeat entry f d en s =
      let slot : Addr := BitVec.ofNat 32 (32 * (f / 32))
      if f % 32 / 8 = 0 ∧ en = 0xFF then countGarbled (setAssembly (some { entry := entry, slot := slot, beats := [d] }) s)
      else if en = 0xFF ∧ a.entry = entry ∧ a.slot = slot ∧ f % 32 / 8 = a.beats.length then
        if f % 32 / 8 = 3 then completePacket ((a.beats ++ [d]).flatMap dataBytes) (setAssembly none s)
        else setAssembly (some { a with beats := a.beats ++ [d] }) s
      else countGarbled (setAssembly none s) := by
  rw [receiveBeat, hsome, Nat.mul_comm (f / 32)]
  exact if_congr (by rw [Bool.and_eq_true, decide_eq_true_iff, decide_eq_true_iff, and_comm]) rfl
    (if_congr (by simp only [Bool.and_eq_true, decide_eq_true_eq, and_assoc]) rfl rfl)

theorem completePacket_ignored {b0 b1 b2 b3 : Data} (h : b0.extractLsb' 0 8 = 0) (s : State) :
    completePacket (packetBytes b0 b1 b2 b3) s = s := if_pos h

theorem completePacket_garbled {b0 b1 b2 b3 : Data} (h : b0.extractLsb' 0 8 ≠ 0)
    (hbad : packetSum (packetBytes b0 b1 b2 b3) ≠ 0 ∨ 15 < (b0.extractLsb' 8 8).toNat) (s : State) :
    completePacket (packetBytes b0 b1 b2 b3) s = countGarbled s := (if_neg h).trans (if_pos hbad)

/-- Settles O17: the assembly by the beat's turn, and the packet that its last beat completes. -/
theorem packetLastBeatHandsOver : Obligations.PacketLastBeatHandsOver := by
  refine ⟨fun s u b d en w htakes ht => ?assembly, fun s u b b0 b1 b2 d w htakes hup ht hlast hthree => ?complete⟩
  case assembly =>
    intro n slot starts fresh leaves
    have hexec := htakes.exec_snoop ht
    obtain ⟨x, rfl⟩ := htakes.exists_bus
    rw [deliver] at hexec
    refine ⟨fun hnone hstarts => ?_, fun hnone hother => ?_, fun a hsome => ⟨fun hstarts => ?_, fun hturn hmore => ?_, fun hother hturn => ?_⟩⟩
    · rw [receiveBeat_none (s := { s with bus := x }) hnone, if_pos hstarts] at hexec
      exact hexec
    · rw [receiveBeat_none (s := { s with bus := x }) hnone, if_neg hother] at hexec
      simp only [leaves, hexec, ← hnone]
    · rw [receiveBeat_some (s := { s with bus := x }) hsome] at hexec
      exact hexec.trans (congrArg Host.Outcome.next (if_pos hstarts))
    · obtain ⟨hwhole, hnonzero, hentry, hslot, hlength⟩ := hturn
      rw [receiveBeat_some (s := { s with bus := x }) hsome] at hexec
      refine hexec.trans (congrArg Host.Outcome.next ((if_neg fun h => hnonzero h.1).trans
        ((if_pos ⟨hwhole, hentry, hslot, hlength.symm⟩).trans (if_neg hmore))))
    · rw [receiveBeat_some (s := { s with bus := x }) hsome] at hexec
      refine hexec.trans (congrArg Host.Outcome.next ((if_neg hother).trans (if_neg fun ⟨hwhole, hentry, hslot, hlength⟩ => ?_)))
      exact hturn ⟨hwhole, fun hzero => hother ⟨hzero, hwhole⟩, hentry, hslot, hlength.symm⟩
  case complete =>
    intro sum bad done
    have hexec := htakes.exec_snoop ht
    obtain ⟨x, rfl⟩ := htakes.exists_bus
    have hslot : 32 * (w.offset b.addr / 32) = w.offset b.addr - 24 := by omega
    have hturn : w.offset b.addr % 32 / 8 = 3 := by omega
    have hcomplete : exec (.writeBeatDataTaken d 0xFF) s =
        .next (completePacket (packetBytes b0 b1 b2 d) (setAssembly none { s with bus := x })) := by
      rw [deliver, receiveBeat_some (s := { s with bus := x }) hthree, hslot] at hexec
      refine hexec.trans (congrArg Host.Outcome.next ((if_neg fun h => absurd h.1 (by omega)).trans
        ((if_pos ⟨rfl, rfl, rfl, hturn⟩).trans (if_pos hturn))))
    have hbad : bad ↔ packetSum (packetBytes b0 b1 b2 d) ≠ 0 ∨ 15 < (b0.extractLsb' 8 8).toNat := by
      have hsum : (packetSum (packetBytes b0 b1 b2 d)).toNat = sum := by
        simp only [packetSum_toNat, packetBytes, List.flatMap_cons, List.flatMap_nil, List.append_nil, List.append_assoc, sum]
      exact or_congr_left (hsum ▸ not_congr (BitVec.toNat_eq (y := 0#8)).symm)
    rw [hcomplete]
    refine ⟨fun hzero => ?_, fun hnonzero hgarbled => ?_, fun hnonzero hgood => ?_⟩
    · rw [completePacket_ignored hzero]
      rfl
    · rw [completePacket_garbled hnonzero (hbad.1 hgarbled)]
      rfl
    · exact (exec_packetKind (s := { s with bus := x }) hup hnonzero (mt hbad.2 hgood)).symm

end Sys2Proof.Machine
end

section
/-! The anchor page: entries, the lock and the presence timeout (sections 1.3, 8.3). -/

namespace Sys2Proof.Machine

/-! ### The entry check and a touched entry (R13, R14) -/

theorem setMember_other {i j : Fin 16} (h : j ≠ i) (x : Set16) (b : Bool) :
    (setMember x i b).getLsbD j.val = x.getLsbD j.val := by
  have hne : i.val ≠ j.val := fun e => h (Fin.ext e.symm)
  rw [setMember]
  split <;> simp [BitVec.getLsbD_or, BitVec.getLsbD_and, hne, -BitVec.getLsbD_eq_getElem]

theorem setMember_self (i : Fin 16) (x : Set16) (b : Bool) : (setMember x i b).getLsbD i.val = b := by
  rw [setMember]
  cases b <;> simp [i.isLt]

theorem ranges_meet_iff {a b m n : Nat} (hm : 0 < m) (hn : 0 < n) :
    (∃ x, a ≤ x ∧ x < a + m ∧ b ≤ x ∧ x < b + n) ↔ a < b + n ∧ b < a + m := by
  constructor
  · rintro ⟨x, h1, h2, h3, h4⟩; omega
  · rintro ⟨h1, h2⟩; exact ⟨max a b, by omega, by omega, by omega, by omega⟩

theorem unitLegal_eq_false (code unit : Nat) :
    unitLegal code unit = false ↔ (if code = 5 ∨ code = 9 then 3 < unit else unit ≠ 0) := by
  unfold unitLegal
  split <;> simp

theorem entryCheck_eq_false (sel : BitVec 2) (m : Mem) (i : Nat) :
    entryCheck sel m i = false ↔
      16 < entrySizeCode m i ∨ (entryBase m i).toNat % (4096 * 2 ^ entrySizeCode m i) ≠ 0 ∨ 9 < entryRoleCode m i ∨
      unitLegal (entryRoleCode m i) (entryUnit m i) = false ∨
      ((entryBase m i).toNat < (anchorBase sel).toNat + 4096 ∧
        (anchorBase sel).toNat < (entryBase m i).toNat + 4096 * 2 ^ entrySizeCode m i) ∨
      (memoryTop m ≠ 0 ∧ memoryTop m * 1048576 < (entryBase m i).toNat + 4096 * 2 ^ entrySizeCode m i) := by
  simp only [entryCheck, Bool.and_eq_false_iff, Bool.or_eq_false_iff, Bool.not_eq_false', Bool.and_eq_true, decide_eq_false_iff_not,
    decide_eq_true_eq, Nat.not_le, or_assoc, ne_eq]

theorem Mem.read_writeWhere_other (m : Mem) (base : Nat) (d : Data) (sel : Nat → Bool) {p : Nat} (hp : p < base ∨ base + 8 ≤ p) :
    (m.writeWhere base d sel).read p = m.read p := by
  have hlist (l : List Nat) (hl : ∀ i ∈ l, i < 8) (m : Mem) :
      (l.foldl (fun m i => if sel i then m.write (base + i) (dataByte d i) else m) m).read p = m.read p := by
    induction l generalizing m with
    | nil => rfl
    | cons i l ih =>
      have hi : p ≠ base + i := by have := hl i List.mem_cons_self; omega
      rw [List.foldl_cons, ih fun j hj => hl j (List.mem_cons_of_mem _ hj)]
      split
      · exact Mem.read_write_other m _ _ _ hi
      · rfl
  exact hlist _ (fun i hi => List.mem_range.1 hi) m

theorem touchEntry_eq (i : Fin 16) (s : State) :
    touchEntry i s =
      let live := setMember s.anchor.live i (entryEnable s.anchor.bytes i && entryCheck s.anchorSel s.anchor.bytes i)
      if entryEnable s.anchor.bytes i = true ∧ entryCheck s.anchorSel s.anchor.bytes i = false then
        signalled 0 { s with anchor := { s.anchor with live := live, lastFault := .entry i } }
      else { s with anchor := { s.anchor with live := live } } := by
  unfold touchEntry
  cases entryEnable s.anchor.bytes i <;> cases entryCheck s.anchorSel s.anchor.bytes i <;> simp [raise_eq]
  rfl

/-- An unlocked write beat to the shadow. -/
theorem shadowBeat_unlocked {off : Nat} {d : Data} {en : Enables} {s : State} (hoff : off < 0x200) (hen : en ≠ 0)
    (hlock : lockSet s.anchor.bytes = false) :
    shadowBeat off d en s =
      let stored := { s with anchor := { s.anchor with bytes := s.anchor.bytes.writeBeat off d en } }
      if off < 0x100 then touchEntry (Fin.ofNat 16 (off / 16)) stored else stored := by
  rw [shadowBeat, if_neg (by rintro (h | h); omega; exact hen h), if_neg (by simp [hlock])]

theorem presenceMinutes_congr {m n : Mem} (h : m.read 0x148 = n.read 0x148) : presenceMinutes m = presenceMinutes n := by
  rw [presenceMinutes, presenceMinutes, Mem.field_one, Mem.field_one, h]

/-- A beat that leaves the presence timeout is the shadow's alone. -/
theorem anchorBeat_same {a : Addr} {d : Data} {en : Enables} {s : State}
    (h : presenceMinutes (shadowBeat (a.toNat % 4096) d en s).anchor.bytes = presenceMinutes s.anchor.bytes) :
    anchorBeat a d en s = shadowBeat (a.toNat % 4096) d en s := if_pos h

/-- Settles O10: the bytes of the entry first, then the entry's fate by its enable flag and the check. -/
theorem touchedEntryIsCheckedOrDisabled : Obligations.TouchedEntryIsCheckedOrDisabled := by
  refine ⟨fun sel m i => ?_, fun s u b d en i htakes ht haligned hi hen hlock => ?_⟩
  · intro base size page
    rw [entryCheck_eq_false, unitLegal_eq_false, ranges_meet_iff (Nat.mul_pos (by decide) (Nat.two_pow_pos _)) (by decide)]
  · have hexec := htakes.exec_snoop ht
    obtain ⟨x, rfl⟩ := htakes.exists_bus
    have hoff : b.addr.toNat % 4096 < 0x100 := by omega
    have hentry : Fin.ofNat 16 (b.addr.toNat % 4096 / 16) = i := Fin.ext (by change b.addr.toNat % 4096 / 16 % 16 = i.val; omega)
    have hshadow := shadowBeat_unlocked (d := d) (s := { s with bus := x }) (show b.addr.toNat % 4096 < 0x200 by omega) hen hlock
    rw [if_pos hoff, hentry, touchEntry_eq] at hshadow
    let m := s.anchor.bytes.writeBeat (b.addr.toNat % 4096) d en
    have hrest : ∀ p, p < 16 * i.val ∨ 16 * i.val + 16 ≤ p → m.read p = s.anchor.bytes.read p := fun p hp =>
      Mem.read_writeWhere_other _ _ d _ (by omega)
    refine ⟨m, setMember s.anchor.live i (entryEnable m i && entryCheck s.anchorSel m i), fun j hj => setMember_other hj _ _,
      setMember_self i _ _, hrest, ?_⟩
    rw [deliver, anchorBeat_same, hshadow] at hexec
    · exact hexec
    · refine presenceMinutes_congr ?_
      rw [hshadow]
      refine Eq.trans ?_ (hrest 0x148 (by omega))
      split <;> rfl

end Sys2Proof.Machine
end

section
/-! The presence timeout shortened by an anchor write, and the lock (sections 1.3, 8.3). -/

namespace Sys2Proof.Machine

/-! ### Several presence expiries in a row (R138) -/

theorem expirePresence_records (h k : Fin 16) (s : State) :
    (expirePresence h s).handsets.records[k] =
      if k = h ∧ presenceDue s h = true then (s.handsets.records[h]).lapse else s.handsets.records[k] := by
  by_cases hdue : presenceDue s h = true
  · rw [expirePresence_of_due hdue, changeHandset_record]
    by_cases hk : k = h
    · rw [if_pos ⟨hk, hdue⟩, hk, setAt_self]
    · rw [if_neg fun hboth => hk hboth.1, setAt_other _ _ _ _ hk]
  · rw [if_neg fun hboth => hdue hboth.2, expirePresence, if_neg hdue]

theorem expirePresence_eq (h : Fin 16) (s : State) :
    expirePresence h s = { s with
      handsets := (expirePresence h s).handsets, events := (expirePresence h s).events
      statusGen := (expirePresence h s).statusGen } := by
  unfold expirePresence
  split
  · exact changeHandset_eq h _ s
  · rfl

theorem expirePresence_tested (h : Fin 16) (s : State) : SkipTested s (expirePresence h s) (presenceDue s h = true) := by
  by_cases hdue : presenceDue s h = true
  · obtain ⟨-, -, -, htested, -⟩ := lapse_moved h ((HandsetState.present_iff _).2 ((presenceDue_iff s h).1 hdue).1)
    rw [expirePresence_of_due hdue]
    exact htested.iff (iff_of_true trivial hdue)
  · rw [expirePresence, if_neg hdue]
    exact .idle rfl hdue

theorem expirePresence_passes (h : Fin 16) {s : State} (hp : SkipPasses s) : SkipPasses (expirePresence h s) := by
  by_cases hdue : presenceDue s h = true
  · rw [expirePresence_of_due hdue]
    exact hp.setAt (changeHandset_record h _ s) (fun habsent => by cases habsent) id
  · rwa [expirePresence, if_neg hdue]

theorem expireList_passes (l : List (Fin 16)) {s : State} (hp : SkipPasses s) :
    SkipPasses (l.foldl (fun s h => expirePresence h s) s) := by
  induction l generalizing s with
  | nil => exact hp
  | cons a l ih => exact ih (expirePresence_passes a hp)

/-- No timer of the list is due. -/
theorem expireList_idle (l : List (Fin 16)) {s : State} (hnone : ∀ h ∈ l, presenceDue s h ≠ true) :
    l.foldl (fun s h => expirePresence h s) s = s := by
  induction l with
  | nil => rfl
  | cons a l ih =>
    rw [List.foldl_cons, expirePresence, if_neg (hnone a List.mem_cons_self)]
    exact ih fun h hh => hnone h (List.mem_cons_of_mem _ hh)

theorem expireList_eq (l : List (Fin 16)) (s : State) :
    let t := l.foldl (fun s h => expirePresence h s) s
    t = { s with handsets := t.handsets, events := t.events, statusGen := t.statusGen } := by
  induction l generalizing s with
  | nil => rfl
  | cons a l ih =>
    intro t
    exact (ih (expirePresence a s)).trans (congrArg (fun x : State =>
      { x with handsets := t.handsets, events := t.events, statusGen := t.statusGen }) (expirePresence_eq a s))

theorem expireList_records (l : List (Fin 16)) (hn : l.Nodup) (s : State) (k : Fin 16) :
    (l.foldl (fun s h => expirePresence h s) s).handsets.records[k] =
      if k ∈ l ∧ presenceDue s k = true then (s.handsets.records[k]).lapse else s.handsets.records[k] := by
  induction l generalizing s with
  | nil => simp
  | cons a l ih =>
    obtain ⟨ha, hl⟩ := List.nodup_cons.1 hn
    rw [List.foldl_cons, ih hl, expirePresence_records]
    by_cases hk : k = a
    · subst hk
      by_cases hdue : presenceDue s k = true <;> simp [ha, hdue]
    · simp only [presenceDue_other s a k hk, List.mem_cons, hk, false_and, false_or, if_false]

theorem exists_due_other {a : Fin 16} {l : List (Fin 16)} (ha : a ∉ l) (s : State) :
    (∃ h ∈ l, presenceDue (expirePresence a s) h = true) ↔ ∃ h ∈ l, presenceDue s h = true :=
  exists_congr fun h => and_congr_right fun hh => by rw [presenceDue_other s a h fun e => ha (e ▸ hh)]

theorem expireList_tested (l : List (Fin 16)) (hn : l.Nodup) (s : State) :
    SkipTested s (l.foldl (fun s h => expirePresence h s) s) (∃ h ∈ l, presenceDue s h = true) := by
  induction l generalizing s with
  | nil => exact .idle rfl (by simp)
  | cons a l ih =>
    obtain ⟨ha, hl⟩ := List.nodup_cons.1 hn
    have hclock : (expirePresence a s).clock = s.clock := by simp
    obtain ⟨-, -, hraised⟩ := expirePresence_fold l hl (expirePresence a s) (expirePresence a s) 0 _ (.refl _)
    refine ((expirePresence_tested a s).trans (ih hl (expirePresence a s)) hclock
      (fun h11 => (hraised.1 11 (by decide)).2 (.inl h11)) (expireList_passes l) ?_).iff ?_
    · by_cases hsome : ∃ h ∈ l, presenceDue (expirePresence a s) h = true
      · exact .inl hsome
      · rw [expireList_idle l fun h hh hdue => hsome ⟨h, hh, hdue⟩]
        exact .inr id
    · simp only [exists_due_other ha, List.exists_mem_cons_iff]

/-- All that the expiries of a list do (R138, R142, R148). -/
theorem expireList_spec (l : List (Fin 16)) (hn : l.Nodup) (s : State) :
    let t := l.foldl (fun s h => expirePresence h s) s
    t = { s with handsets := t.handsets, events := t.events, statusGen := t.statusGen } ∧
      (∀ k : Fin 16, t.handsets.records[k] =
        if k ∈ l ∧ presenceDue s k = true then (s.handsets.records[k]).lapse else s.handsets.records[k]) ∧
      SkipTested s t (∃ h ∈ l, presenceDue s h = true) ∧
      t.handsets.gen = s.handsets.gen + BitVec.ofNat 32 (l.countP (fun h => presenceDue s h)) ∧
      Raised s t 0 (fun n => n = 12 ∧ (∃ h ∈ l, presenceDue s h = true) ∨
        n = 11 ∧ s.handsets.votePassed = false ∧ t.handsets.votePassed = true) := by
  obtain ⟨-, hgen, hraised⟩ := expirePresence_fold l hn s s 0 _ (.refl s)
  exact ⟨expireList_eq l s, expireList_records l hn s, expireList_tested l hn s, hgen, hraised.iff fun n => by rw [false_or]⟩

/-- All that the sixteen expiries do. -/
theorem expireAllPresence_spec {s t : State} (ht : expireAllPresence s = t) :
    t = { s with handsets := t.handsets, events := t.events, statusGen := t.statusGen } ∧
      (∀ k : Fin 16, t.handsets.records[k] = if presenceDue s k = true then (s.handsets.records[k]).lapse else s.handsets.records[k]) ∧
      SkipTested s t (∃ h, presenceDue s h = true) ∧
      t.handsets.gen = s.handsets.gen + BitVec.ofNat 32 ((List.finRange 16).countP (fun h => presenceDue s h)) ∧
      Raised s t 0 (fun n => n = 12 ∧ (∃ h, presenceDue s h = true) ∨
        n = 11 ∧ s.handsets.votePassed = false ∧ t.handsets.votePassed = true) := by
  have hspec := expireList_spec (List.finRange 16) (List.nodup_finRange 16) s
  unfold expireAllPresence at ht
  rw [ht] at hspec
  simpa only [List.mem_finRange, true_and] using hspec

theorem expireAllPresence_idle {s : State} (hnone : ∀ h, presenceDue s h ≠ true) : expireAllPresence s = s :=
  expireList_idle _ fun h _ => hnone h

theorem expireAllPresence_keeps_anchor (s : State) : (expireAllPresence s).anchor = s.anchor := by
  obtain ⟨t, ht⟩ : ∃ t, expireAllPresence s = t := ⟨_, rfl⟩
  rw [ht]
  rw [(expireAllPresence_spec ht).1]

/-! ### The shadow (R12, R14, R18) -/

theorem shadowBeat_eq (off : Nat) (d : Data) (en : Enables) (s : State) :
    shadowBeat off d en s = { s with
      anchor := (shadowBeat off d en s).anchor, events := (shadowBeat off d en s).events
      statusGen := (shadowBeat off d en s).statusGen } := by
  simp only [shadowBeat, touchEntry, raise_eq]
  split_ifs <;> rfl

theorem shadowBeat_read {off : Nat} {s : State} (haligned : off % 8 = 0) (hlock : lockSet s.anchor.bytes = false)
    (hwf : s.anchor.bytes.wf = true) (d : Data) (en : Enables) (p : Nat) :
    (shadowBeat off d en s).anchor.bytes.read p =
      if p < 0x200 ∧ off ≤ p ∧ p < off + 8 ∧ en.getLsbD (p - off) = true then d.extractLsb' (8 * (p - off)) 8
      else s.anchor.bytes.read p := by
  by_cases hidle : 0x200 ≤ off ∨ en = 0
  · rw [shadowBeat, if_pos hidle, if_neg]
    rintro ⟨hp, hfrom, -, hen⟩
    rcases hidle with hfar | rfl
    · omega
    · simp at hen
  · obtain ⟨hfar, hen⟩ := not_or.1 hidle
    have hbytes : (shadowBeat off d en s).anchor.bytes = s.anchor.bytes.writeBeat off d en := by
      rw [shadowBeat_unlocked (by omega) hen hlock]
      split <;> simp
    rw [hbytes, Mem.read_writeBeat hwf]
    refine ite_congr (propext ?_) (fun _ => rfl) (fun _ => rfl)
    constructor
    · rintro ⟨h1, h2, h3⟩; exact ⟨by omega, h1, h2, h3⟩
    · rintro ⟨-, h1, h2, h3⟩; exact ⟨h1, h2, h3⟩

/-- Beyond the entries a beat replaces bytes and nothing else. -/
theorem shadowBeat_globals {off : Nat} (hoff : 0x100 ≤ off) {s : State} (hlock : lockSet s.anchor.bytes = false) (d : Data)
    (en : Enables) :
    shadowBeat off d en s = { s with anchor := { s.anchor with bytes := (shadowBeat off d en s).anchor.bytes } } := by
  by_cases hidle : 0x200 ≤ off ∨ en = 0
  · rw [shadowBeat, if_pos hidle]
  · obtain ⟨hfar, hen⟩ := not_or.1 hidle
    rw [shadowBeat_unlocked (by omega) hen hlock]
    simp only [show ¬ off < 0x100 by omega, if_false]

theorem shadowBeat_locked {s : State} (hlock : lockSet s.anchor.bytes = true) (off : Nat) (d : Data) (en : Enables) :
    shadowBeat off d en s =
      if off < 0x200 ∧ en ≠ 0 then signalled 0 { s with anchor := { s.anchor with lastFault := .locked } } else s := by
  by_cases hidle : 0x200 ≤ off ∨ en = 0
  · rw [shadowBeat, if_pos hidle, if_neg (by rintro ⟨h1, h2⟩; exact hidle.elim (by omega) h2)]
  · obtain ⟨hfar, hen⟩ := not_or.1 hidle
    rw [shadowBeat, if_neg hidle, if_pos hlock, if_pos ⟨by omega, hen⟩, raise_eq]
    rfl

/-- A handset whose elapsed time is at or above a timeout in minutes (R138). -/
def Lapses (s : State) (minutes : Nat) (h : Fin 16) : Prop :=
  ((s.handsets.records[h]).state = .active ∨ (s.handsets.records[h]).state = .held) ∧
    ∃ start, (s.handsets.records[h]).presence = some start ∧ minutes * 60000 ≤ (s.timebase - start).toNat

/-- The expiries after an anchor write that changes bytes alone, told of the state before it. -/
theorem expireAllPresence_anchor {s t : State} {a : Anchor} (ht : expireAllPresence { s with anchor := a } = t) :
    let lapses := Lapses s (presenceMinutes a.bytes)
    t = { s with anchor := a, handsets := t.handsets, events := t.events, statusGen := t.statusGen } ∧
      (∀ h : Fin 16, lapses h → t.events.getLsbD 12 = true ∧
        t.handsets.records[h] = { s.handsets.records[h] with state := .absent, presence := none }) ∧
      (∀ h : Fin 16, ¬ lapses h → t.handsets.records[h] = s.handsets.records[h]) ∧ SkipTested s t (∃ h, lapses h) ∧
      t.handsets.gen = s.handsets.gen + BitVec.ofNat 32 ((List.finRange 16).countP (fun h =>
        decide ((t.handsets.records[h]).state ≠ (s.handsets.records[h]).state))) ∧
      Raised s t 0 (fun n => n = 12 ∧ (∃ h, lapses h) ∨ n = 11 ∧ s.handsets.votePassed = false ∧ t.handsets.votePassed = true) ∧
      ((∀ h, ¬ lapses h) → t = { s with anchor := a }) := by
  intro lapses
  let u : State := { s with anchor := a }
  have hdue (h : Fin 16) : presenceDue u h = true ↔ lapses h := presenceDue_iff u h
  have hany : (∃ h, presenceDue u h = true) ↔ ∃ h, lapses h := exists_congr hdue
  obtain ⟨hframe, hrecords, htested, hgen, hraised⟩ := expireAllPresence_spec ht
  have hraised' : Raised s t 0 (fun n => n = 12 ∧ (∃ h, lapses h) ∨
      n = 11 ∧ s.handsets.votePassed = false ∧ t.handsets.votePassed = true) :=
    (hraised.source rfl rfl).iff fun n => or_congr_left (and_congr_right fun _ => hany)
  refine ⟨hframe, fun h hh => ⟨(hraised'.1 12 (by decide)).2 (.inr (.inl ⟨rfl, h, hh⟩)), ?_⟩, fun h hh => ?_,
    (htested.iff hany).source rfl rfl, hgen.trans ?_, hraised', fun hnone => ?_⟩
  · exact (hrecords h).trans (if_pos ((hdue h).2 hh))
  · exact (hrecords h).trans (if_neg (mt (hdue h).1 hh))
  · refine congrArg (s.handsets.gen + BitVec.ofNat 32 ·) (List.countP_congr fun h _ => ?_)
    rw [decide_eq_true_iff, hrecords h]
    by_cases hd : presenceDue u h = true
    · rw [if_pos hd]
      refine iff_of_true hd fun hsame => ?_
      have hpresent := ((presenceDue_iff u h).1 hd).1
      rcases hpresent with hp | hp <;> exact absurd (hsame.trans hp) (by simp [Handset.lapse])
    · rw [if_neg hd]
      exact iff_of_false hd (fun hne => hne rfl)
  · exact ht.symm.trans (expireAllPresence_idle fun h => mt (hdue h).1 (hnone h))

/-- A write beat beyond the entries: its bytes, and the expiries that a changed presence timeout brings. -/
theorem anchorGlobals_spec {s t : State} {m : Mem} {x : BusPath}
    (ht : (if presenceMinutes m = presenceMinutes s.anchor.bytes then { s with bus := x, anchor := { s.anchor with bytes := m } }
      else expireAllPresence { s with bus := x, anchor := { s.anchor with bytes := m } }) = t) :
    let lapses := Lapses s (presenceMinutes m)
    t.anchor = { s.anchor with bytes := m } ∧
      (presenceMinutes m = presenceMinutes s.anchor.bytes ∨ (∀ h, ¬ lapses h) → t = { s with bus := x, anchor := { s.anchor with bytes := m } }) ∧
      (presenceMinutes m ≠ presenceMinutes s.anchor.bytes →
        (∀ h : Fin 16, lapses h → t.events.getLsbD 12 = true ∧
          t.handsets.records[h] = { s.handsets.records[h] with state := .absent, presence := none }) ∧
        (∀ h : Fin 16, ¬ lapses h → t.handsets.records[h] = s.handsets.records[h]) ∧ SkipTested s t (∃ h, lapses h) ∧
        t.handsets.gen = s.handsets.gen + BitVec.ofNat 32 ((List.finRange 16).countP (fun h =>
          decide ((t.handsets.records[h]).state ≠ (s.handsets.records[h]).state)))) ∧
      Raised s t 0 (fun n => n = 12 ∧ presenceMinutes m ≠ presenceMinutes s.anchor.bytes ∧ (∃ h, lapses h) ∨
        n = 11 ∧ s.handsets.votePassed = false ∧ t.handsets.votePassed = true) ∧
      t = { s with
        bus := x, anchor := { s.anchor with bytes := m }, handsets := t.handsets, events := t.events, statusGen := t.statusGen } := by
  intro lapses
  by_cases hsame : presenceMinutes m = presenceMinutes s.anchor.bytes
  · rw [if_pos hsame] at ht
    subst ht
    refine ⟨rfl, fun _ => rfl, fun hne => absurd hsame hne, ((Raised.refl s).congr rfl rfl).iff fun n => ?_, rfl⟩
    change False ↔ n = 12 ∧ presenceMinutes m ≠ presenceMinutes s.anchor.bytes ∧ (∃ h, lapses h) ∨
      n = 11 ∧ s.handsets.votePassed = false ∧ s.handsets.votePassed = true
    cases s.handsets.votePassed <;> simp [hsame]
  · rw [if_neg hsame] at ht
    obtain ⟨hframe, hlapsed, hkept, htested, hgen, hraised, hidle⟩ := expireAllPresence_anchor (s := { s with bus := x }) ht
    exact ⟨by rw [hframe], fun hquiet => hidle (hquiet.resolve_left hsame), fun _ => ⟨hlapsed, hkept, htested.source rfl rfl, hgen⟩,
      (hraised.source rfl rfl).iff fun n => or_congr_left (and_congr_right fun _ => (and_iff_right hsame).symm), hframe⟩

/-- Settles O9: the shadow's bytes, then the expiries that a changed presence timeout brings. -/
theorem anchorWritesAndLock : Obligations.AnchorWritesAndLock := by
  refine ⟨fun s u b d en htakes ht hlock => ?locked, fun s u b d en htakes ht haligned hlock hwf => ?unlocked⟩
  case locked =>
    have hexec := htakes.exec_snoop ht
    obtain ⟨x, rfl⟩ := htakes.exists_bus
    have hshadow := shadowBeat_locked (s := { s with bus := x }) hlock (b.addr.toNat % 4096) d en
    rw [deliver, anchorBeat_same, hshadow] at hexec
    · exact hexec
    · rw [hshadow]
      split <;> rfl
  case unlocked =>
    have hexec := htakes.exec_snoop ht
    obtain ⟨x, rfl⟩ := htakes.exists_bus
    let u : State := { s with bus := x }
    have hlow : b.addr.toNat % 4096 % 8 = 0 := by omega
    have hread := shadowBeat_read (s := u) hlow hlock hwf d en
    have hframe := shadowBeat_eq (b.addr.toNat % 4096) d en u
    have hglobals (hoff : 0x100 ≤ b.addr.toNat % 4096) := shadowBeat_globals (s := u) hoff hlock d en
    have hbeat : anchorBeat b.addr d en u =
      if presenceMinutes (shadowBeat (b.addr.toNat % 4096) d en u).anchor.bytes = presenceMinutes s.anchor.bytes then
        shadowBeat (b.addr.toNat % 4096) d en u else expireAllPresence (shadowBeat (b.addr.toNat % 4096) d en u) := rfl
    generalize shadowBeat (b.addr.toNat % 4096) d en u = v at hread hframe hglobals hbeat
    obtain ⟨t, ht⟩ : ∃ t, anchorBeat b.addr d en u = t := ⟨_, rfl⟩
    rw [ht] at hbeat
    have hanchor : t.anchor = v.anchor := by
      rw [hbeat]
      split
      · rfl
      · exact expireAllPresence_keeps_anchor v
    refine ⟨t, hexec.trans (congrArg Host.Outcome.next ht), fun p => by rw [hanchor]; exact hread p, fun hsame => ?_, fun hoff => ?_⟩
    · rw [hanchor] at hsame
      rw [hbeat, if_pos hsame]
      exact hframe
    · rw [hglobals hoff] at hbeat
      obtain ⟨ha, hrest⟩ := anchorGlobals_spec hbeat.symm
      rw [ha]
      intro lapses
      exact ⟨rfl, hrest⟩

end Sys2Proof.Machine
end

section
/-! The song's life: its clock, its seek and its ends (sections 1.4, 3.4 to 3.7). -/

namespace Sys2Proof.Machine

/-! ### The end of a song (R53, R121, R124, R164) -/

theorem endSong_eq (o : EndOutcome) (s : State) : endSong o s = { s with
    clock := (endSong o s).clock, score := (endSong o s).score, queue := (endSong o s).queue
    events := (endSong o s).events, statusGen := (endSong o s).statusGen } := by
  simp only [endSong, closeAllNotes, bumpScore, standbyEvaluate_eq, raise_eq]
  split_ifs <;> rfl

/-- A song that ended, told of a state with the same blocks in accord. -/
theorem SongEnded.congr {o : EndOutcome} {n : Nat} {s t u : State} (h : SongEnded o n s t) (hclock : u.clock = t.clock)
    (hscore : u.score = t.score) (hqueue : u.queue = t.queue) (hroom : u.room = t.room) (hanchor : u.anchor = t.anchor)
    (hevents : u.events = t.events) (hgen : u.statusGen = t.statusGen) : SongEnded o n s u := by
  obtain ⟨hc, hs, hn, hq, hr⟩ := h
  have he := evaluated_congr hroom hanchor hclock
  refine ⟨hclock.trans hc, by rw [hscore]; exact hs, ?_, ?_, (hr.congr hevents hgen).iff fun k => by rw [he]⟩
  · unfold NotesClosed at hn ⊢
    rwa [hscore]
  · rw [hqueue, evaluatedQueue_congr hroom hanchor hclock]
    exact hq

theorem exec_songStop {slot : CmdSlot} {s : State} (hup : s.busUp = true) :
    exec (.songStop slot) s = .next (takeCommand slot 0x13 songStopOp s) := handOver_of_busUp hup _

/-- Settles O31: the end of a song in progress, or the refusal of a state without one. -/
theorem songStopEndsSong : Obligations.SongStopEndsSong := by
  intro slot s hup
  rw [exec_songStop hup]
  refine ⟨fun hplaying => ?_, fun hover => ?_⟩
  · let u := endSong .stopped (setFirstHalf none s)
    have hop : songStopOp (setFirstHalf none s) = (.done, u) := if_pos hplaying
    have htake := takeCommand_done slot 0x13 songStopOp s u hop (by simp [u])
    obtain ⟨hclock, hscore, hnotes, hqueue, hraised⟩ := endSong_ended .stopped (setFirstHalf none s)
    refine ⟨_, congrArg Host.Outcome.next htake, rfl, ⟨hclock, hscore, hnotes, hqueue, hraised.done slot 0x13⟩, ?_⟩
    exact congrArg (fun x : State => { x with intake := doneRecord slot 0x13, statusGen := u.statusGen + 1 })
      (endSong_eq .stopped (setFirstHalf none s))
  · have hop : songStopOp (setFirstHalf none s) = (.refusedState, setFirstHalf none s) :=
      if_neg (by rcases hover with h | h <;> simp [setFirstHalf, h, SongState.inProgress])
    rw [takeCommand_refused slot 0x13 songStopOp .refusedState s hop]

/-! ### Bus reset (R20, R21) -/

theorem exec_busReset {s : State} (hcold : s.resetLow = false) (hpin : s.busResetLow = false) :
    exec .busReset s = .next { busResetBlocks s with busResetLow := true } := by
  have hstate : busResetState s = { busResetBlocks s with busResetLow := true } := by
    rw [busResetState, hpin, hcold]
    rfl
  exact congrArg Host.Outcome.next hstate

/-- Settles O22: the end of a song first, then the blocks that the reset clears. -/
theorem busResetEndsSongAndKeepsTables : Obligations.BusResetEndsSongAndKeepsTables := by
  unfold Obligations.BusResetEndsSongAndKeepsTables
  intro dropped
  refine ⟨fun s hcold hpin hplaying => ?_, fun s => ⟨fun hcold hpin hidle => ?_, rfl⟩⟩
  · obtain ⟨v, hv⟩ : ∃ v, v = setAssembly none (setFirstHalf none (setBus s.bus.abandon s)) := ⟨_, rfl⟩
    have hplays : v.clock.state.inProgress = true := by rw [hv]; exact hplaying
    have hblocks : busResetBlocks s = clearBands (restartFramers (freeStrips (endSong .reset v))) := by
      rw [busResetBlocks, ← hv]
      exact congrArg (fun x => clearBands (restartFramers (freeStrips x))) (if_pos hplays)
    have hframe := endSong_eq .reset v
    have hended := endSong_ended .reset v
    rw [exec_busReset hcold hpin, hblocks]
    generalize endSong .reset v = w at hframe hended
    subst hv
    obtain ⟨hclock, hscore, hnotes, hqueue, hraised⟩ := hended
    exact ⟨_, rfl, ⟨hclock, hscore, hnotes, hqueue, hraised⟩, congrArg (fun x => { clearBands (restartFramers (freeStrips x)) with busResetLow := true }) hframe⟩
  · have hblocks : busResetBlocks s =
        clearBands (restartFramers (freeStrips (setAssembly none (setFirstHalf none (setBus s.bus.abandon s))))) := by
      rw [busResetBlocks]
      exact congrArg (fun x => clearBands (restartFramers (freeStrips x))) (if_neg (by simp [hidle, setAssembly, setFirstHalf, setBus]))
    rw [exec_busReset hcold hpin, hblocks]
    rfl

/-! ### The clock (R43 to R50) -/

/-- The beats of an accepted read whose windows all carry the PLAYBACK role, in beat order. -/
theorem acceptBeats_playback (s0 : State) {r : BusRequest} (hread : r.dir = .read) (win : Nat → Win) (n : Nat) :
    ∀ (k : Nat) (s : State),
      (∀ i, i < n → ∃ unit, matchBeat s0.anchorSel s0.anchor .read r.tag (beatAddr r (k + i)) = .window (win (k + i)) .playback unit) →
      (acceptBeats s0 r k n s).2 = (List.range' k n).foldl (fun u i => playbackBeat (win i) (beatAddr r i) u) s := by
  induction n with
  | zero => exact fun _ _ _ => rfl
  | succ n ih =>
    intro k s hall
    obtain ⟨unit, hmatch⟩ := hall 0 (Nat.succ_pos n)
    have hbeat : (acceptBeat s0 r (beatAddr r k) s).2 = playbackBeat (win k) (beatAddr r k) s := by
      rw [Nat.add_zero] at hmatch
      simp only [acceptBeat, hread, hmatch, readBeat]
    rw [List.range'_succ, List.foldl_cons, ← hbeat]
    refine ih (k + 1) _ fun i hi => ?_
    rw [Nat.add_assoc, Nat.add_comm 1 i]
    exact hall (i + 1) (Nat.succ_lt_succ hi)

theorem position_ruled (c : SongClock) :
    c.position = if c.state = .idle ∨ c.state = .loaded ∨ c.state = .armed then 0
      else min ((c.frames - c.latency) * 1000 / c.rate) c.duration := by
  rw [SongClock.position]
  cases c.state <;> rfl

theorem expireStall_of_due {s : State} (hdue : stallDue s = true) :
    expireStall s = signalled 5 { s with clock := { s.clock with state := .stalled, stall := none } } := by
  rw [expireStall, if_pos hdue, raise_eq]
  rfl

/-- A beat that counts, from a count of frames that stands (R45, R46, R48). -/
theorem countBeat_spec (w : Win) (a : Addr) (m : Nat) (s : State) {t : State}
    (ht : countBeat w a { s with clock := { s.clock with frames := m } } = t) :
    let counted := { s with clock := { s.clock with
      frames := m + 2, expected := some (w.index, w.next a), stall := some s.timebase, state := .running } }
    let reaches := s.clock.duration ≤ (m + 2 - s.clock.latency) * 1000 / s.clock.rate
    (¬ reaches → t = counted) ∧
      (reaches → SongEnded .complete 0 counted t ∧ t.clock.position = s.clock.duration ∧
        t = { s with clock := t.clock, score := t.score, queue := t.queue, events := t.events, statusGen := t.statusGen }) := by
  intro counted reaches
  subst ht
  refine ⟨fun hshort => if_neg hshort, fun hend => ?_⟩
  have hcount : countBeat w a { s with clock := { s.clock with frames := m } } = endSong .complete counted := if_pos hend
  have hended := endSong_ended .complete counted
  have hframe := endSong_eq .complete counted
  rw [hcount]
  generalize endSong .complete counted = t at hended hframe
  refine ⟨hended, ?_, hframe⟩
  rw [position_ruled, hended.1]
  exact (if_neg (by rintro (h | h | h) <;> cases h)).trans (Nat.min_eq_right hend)

theorem continuous_iff (c : SongClock) (w : Win) (a : Addr) :
    c.continuous w a = true ↔ c.expected = none ∨ c.expected = some (w.index, a) := by
  unfold SongClock.continuous
  split
  case h_1 hnone => simp [hnone]
  case h_2 i e hsome =>
    rw [hsome, Bool.and_eq_true, decide_eq_true_iff, decide_eq_true_iff]
    constructor
    · rintro ⟨rfl, rfl⟩; exact .inr rfl
    · rintro (h | h) <;> cases h
      exact ⟨rfl, rfl⟩

theorem playbackBeat_moving {s : State} (hstate : s.clock.state = .running ∨ s.clock.state = .stalled) (w : Win) (a : Addr) :
    playbackBeat w a s =
      if s.clock.continuous w a then countBeat w a s else raise .clockDiscontinuity { s with clock := s.clock.resync w a } := by
  rcases hstate with h | h <;> rw [playbackBeat, h]

/-- Settles O32: a beat by the song state, then the beats of a request one after the other. -/
theorem playbackBeatsAndStallDriveTheClock : Obligations.PlaybackBeatsAndStallDriveTheClock := by
  refine ⟨fun r win s h hread => ?beats, fun s => ⟨position_ruled s.clock, fun start hrunning hstart => ⟨fun hlong => ?due, fun hshort => ?early⟩,
    fun hstopped => ?stopped⟩, fun w a s => ?beat⟩
  case beats =>
    intro addr hall
    refine ⟨(accept r s).bus, h.exec_eq.trans (congrArg Host.Outcome.next ?_)⟩
    have hbeats := acceptBeats_playback s hread win r.beats 0 s fun i hi => by rw [Nat.zero_add]; exact hall i hi
    rw [← List.range_eq_range'] at hbeats
    exact congrArg (fun x : State => { x with bus := (accept r s).bus }) hbeats
  case due => exact congrArg Host.Outcome.next (expireStall_of_due ((stallDue_iff s).2 ⟨hrunning, start, hstart, hlong⟩))
  case early =>
    refine congrArg Host.Outcome.next (if_neg fun hdue => ?_)
    obtain ⟨-, other, hother, hlong⟩ := (stallDue_iff s).1 hdue
    rw [hstart] at hother
    cases hother
    omega
  case stopped =>
    refine congrArg Host.Outcome.next (if_neg fun hdue => ?_)
    obtain ⟨hrunning, start, hstart, -⟩ := (stallDue_iff s).1 hdue
    exact hstopped.elim (fun h => h hrunning) fun h => by rw [h] at hstart; cases hstart
  case beat =>
    intro next counted reaches ends
    refine ⟨fun hquiet => ?quiet, fun harmed => ?armed, fun hmoving hnext => ?continuous, fun hmoving hsome hother => ?discontinuous⟩
    case quiet => rcases hquiet with h | h | h <;> rw [playbackBeat, h]
    case armed => exact countBeat_spec w a 0 s (by rw [playbackBeat, harmed])
    case continuous =>
      refine countBeat_spec w a s.clock.frames s ?_
      rw [playbackBeat_moving hmoving, if_pos ((continuous_iff _ w a).2 hnext)]
    case discontinuous =>
      rw [playbackBeat_moving hmoving, if_neg (by rw [continuous_iff]; exact not_or.2 ⟨hsome, hother⟩), raise_eq]
      rfl

end Sys2Proof.Machine
end

section
/-! SONG_SEEK (section 3.7). -/

namespace Sys2Proof.Machine

theorem evaluatedQueue_evaluatedQueue (t : State) (q : Queue) : evaluatedQueue t (evaluatedQueue t q) = evaluatedQueue t q := by
  have hagain : evaluated t (evaluated t q.entries) = evaluated t q.entries := standbyWalk_walk _ _ _
  simp [evaluatedQueue, hagain]

theorem evaluated_of_budget {s t : State} (h : t.budget = s.budget) (es : List Entry) : evaluated t es = evaluated s es := by
  rw [evaluated, evaluated, h]

/-- The part of a seek that every DONE seek has: the position, the notes, the chain and the queue (R51, R52, R71, R121). -/
def soughtState (position line : Nat) (s : State) : State :=
  standbyEvaluate (clearChain line (closeAllNotes { s with clock := s.clock.seek position s.timebase }))

theorem applySeek_eq (position line : Nat) (s : State) :
    applySeek position line s =
      if position = s.clock.duration then endSong .complete (soughtState position line s) else soughtState position line s := rfl

theorem soughtState_spec (position line : Nat) (s : State) {t : State} (ht : soughtState position line s = t) :
    t.clock = s.clock.seek position s.timebase ∧ ChainCleared s.lyrics t.lyrics line ∧ NotesClosed s t ∧
      t.score = { s.score with channels := t.score.channels, gen := t.score.gen } ∧ t.queue = evaluatedQueue t s.queue ∧
      Raised s t 0 (fun n => n = 14 ∧ evaluated t s.queue.entries ≠ s.queue.entries) ∧
      t = { s with
        clock := t.clock, lyrics := t.lyrics, score := t.score, queue := t.queue, events := t.events, statusGen := t.statusGen } := by
  obtain ⟨u, hu⟩ : ∃ u, clearChain line (closeAllNotes { s with clock := s.clock.seek position s.timebase }) = u := ⟨_, rfl⟩
  have hnotes : NotesClosed s u := hu ▸ closeAllNotes_closed { s with clock := s.clock.seek position s.timebase }
  have hchain : ChainCleared s.lyrics u.lyrics line := hu ▸ clearChain_cleared line s
  have hscore : u.score = { s.score with channels := u.score.channels, gen := u.score.gen } := hu ▸ rfl
  have hframe : u = { s with clock := s.clock.seek position s.timebase, lyrics := u.lyrics, score := u.score } := hu ▸ rfl
  have hwalk : standbyEvaluate u = t := by rw [← hu]; exact ht
  have hclock : u.clock = s.clock.seek position s.timebase := by rw [hframe]
  have hqueue : u.queue = s.queue := by rw [hframe]
  have heval (es : List Entry) : evaluated t es = evaluated u es := hwalk ▸ evaluated_standbyEvaluate u es
  have hraised : Raised s t 0 (fun n => n = 14 ∧ evaluated t s.queue.entries ≠ s.queue.entries) := by
    have hbase : Raised s u 0 (fun _ => False) := (Raised.refl s).congr (by rw [hframe]) (by rw [hframe])
    rw [← hwalk]
    refine hbase.standbyEvaluate.iff fun n => ?_
    rw [false_or, evaluated_standbyEvaluate, hqueue]
  have htframe := standbyEvaluate_eq_frame u
  have htqueue := standbyEvaluate_queue u
  rw [hwalk] at htframe htqueue
  have htscore : t.score = u.score := by rw [htframe]
  have htlyrics : t.lyrics = u.lyrics := by rw [htframe]
  have htclock : t.clock = s.clock.seek position s.timebase := by rw [htframe]; exact hclock
  refine ⟨htclock, by rwa [htlyrics], ?_, by rwa [htscore], ?_, hraised, ?_⟩
  · unfold NotesClosed at hnotes ⊢
    rwa [htscore]
  · rw [htqueue, hqueue, evaluatedQueue, evaluatedQueue, heval]
  · rw [htscore, htlyrics, htclock]
    exact htframe.trans <| congrArg (fun x : State => { x with queue := t.queue, events := t.events, statusGen := t.statusGen }) hframe

theorem seek_playing_position {c : SongClock} (hmoving : c.state = .running ∨ c.state = .stalled) (hrate : 1000 ≤ c.rate) {p : Nat}
    (hp : p ≤ c.duration) (now : Count32) : (c.seek p now).position = p := by
  have hcounted : ((c.seek p now).frames - c.latency) * 1000 / c.rate = p := seek_position p c.rate c.latency hrate
  have hposition : (c.seek p now).position = min (((c.seek p now).frames - c.latency) * 1000 / c.rate) c.duration := by
    rw [position_ruled]
    refine if_neg fun hstill => ?_
    change c.state = .idle ∨ c.state = .loaded ∨ c.state = .armed at hstill
    rcases hmoving with h | h <;> simp [h] at hstill
  rw [hposition, hcounted, Nat.min_eq_left hp]

/-- A song sought to its end needs no more time, as one that has ended. -/
theorem endSong_budget {t : State} (hend : t.clock.position = t.clock.duration) (o : EndOutcome) :
    (endSong o t).budget = t.budget := by
  have hneeds : t.clock.remainingSeconds = 0 := by
    rw [SongClock.remainingSeconds, hend]
    split <;> simp [ceilDiv]
  have hclock : (endSong o t).clock = t.clock.finish o := (endSong_ended o t).1
  have hended : (endSong o t).clock.remainingSeconds = 0 := by rw [hclock]; rfl
  rw [State.budget, State.budget, hneeds, hended]
  simp

/-- A song sought to its end, and ended there. -/
theorem endSong_sought {s t v : State} {line : Nat} (hmoving : s.clock.state = .running ∨ s.clock.state = .stalled)
    (hrate : 1000 ≤ s.clock.rate) (ht : soughtState s.clock.duration line s = t) (hv : endSong .complete t = v) :
    v.clock = { s.clock with
        state := .ended, endOutcome := .complete, postingDone := false
        frames := (s.clock.duration * s.clock.rate + 999) / 1000 + s.clock.latency, expected := none, stall := none
        epoch := s.clock.epoch + 2 } ∧
      v.clock.position = s.clock.duration ∧ ChainCleared s.lyrics v.lyrics line ∧ NotesClosed s v ∧
      v.score = { s.score with
        channels := v.score.channels, gen := v.score.gen, posting := some { outcome := .complete, start := s.timebase } } ∧
      v.queue = evaluatedQueue v s.queue ∧
      Raised s v 0 (fun n => n = 3 ∨ n = 14 ∧ evaluated v s.queue.entries ≠ s.queue.entries) ∧
      v = { s with
        clock := v.clock, lyrics := v.lyrics, score := v.score, queue := v.queue, events := v.events, statusGen := v.statusGen } := by
  obtain ⟨hclock, hchain, hnotes, hscore, hqueue, hraised, hframe⟩ := soughtState_spec _ line s ht
  have hposition : t.clock.position = t.clock.duration := by
    rw [hclock]
    exact seek_playing_position hmoving hrate (Nat.le_refl _) _
  have hbudget := endSong_budget hposition .complete
  obtain ⟨vclock, vscore, vnotes, vqueue, -⟩ := endSong_ended .complete t
  have vraised := hraised.endSong .complete
  have vframe := endSong_eq .complete t
  rw [hv] at hbudget vclock vscore vnotes vqueue vraised vframe
  have heval : evaluated v = evaluated t := funext (evaluated_of_budget hbudget)
  have hagain : evaluated t (evaluated t s.queue.entries) = evaluated t s.queue.entries := standbyWalk_walk _ _ _
  have hnow : t.timebase = s.timebase := by rw [hframe]
  have hwalk (q : Queue) : evaluatedQueue v q = evaluatedQueue t q := by rw [evaluatedQueue, evaluatedQueue, heval]
  have hentries : t.queue.entries = evaluated t s.queue.entries := congrArg Queue.entries hqueue
  have hvclock : v.clock = { s.clock with
      state := .ended, endOutcome := .complete, postingDone := false
      frames := (s.clock.duration * s.clock.rate + 999) / 1000 + s.clock.latency, expected := none, stall := none
      epoch := s.clock.epoch + 2 } := by
    have hepoch : s.clock.epoch + 1 + 1 = s.clock.epoch + 2 := by rw [BitVec.add_assoc]; rfl
    rw [vclock, hclock, ← hepoch]
    rfl
  have hvlyrics : v.lyrics = t.lyrics := by rw [vframe]
  refine ⟨hvclock, ?_, by rwa [hvlyrics], hnotes.again vnotes, ?_, ?_, vraised.iff fun n => ?_, ?_⟩
  · rw [position_ruled, hvclock]
    refine (if_neg (by rintro (h | h | h) <;> cases h)).trans ?_
    exact (congrArg (min · _) (seek_position _ _ _ hrate)).trans (Nat.min_self _)
  · rw [hnow] at vscore
    rw [vscore, hscore]
  · rw [vqueue, hwalk, hqueue, evaluatedQueue_evaluatedQueue, hwalk]
  · rw [heval, hentries, hagain]
    simp [or_comm]
  · rw [hvlyrics]
    exact vframe.trans (congrArg (fun x : State =>
      { x with clock := v.clock, score := v.score, queue := v.queue, events := v.events, statusGen := v.statusGen }) hframe)

/-- Settles O30: the refusals, the seek within the song, and the seek to the end with the end it brings. -/
theorem songSeekSetsPosition : Obligations.SongSeekSetsPosition := by
  intro slot position line s hup
  have hexec : exec (.songSeek slot position line) s = .next (takeCommand slot 0x12 (songSeekOp position line) s) :=
    handOver_of_busUp hup _
  rw [hexec]
  have hdone (hline : line.toNat ≤ 4095) (hposition : position.toNat ≤ s.clock.duration)
      (hmoving : s.clock.state = .running ∨ s.clock.state = .stalled) :
      songSeekOp position line (setFirstHalf none s) = (.done, applySeek position.toNat line.toNat (setFirstHalf none s)) := by
    rw [songSeekOp, if_neg (by rintro (h | h); omega; exact absurd hposition (Nat.not_le.2 h))]
    exact if_pos hmoving
  refine ⟨fun hbad => ?argument, fun hline hposition hrunning hstalled => ?state, fun hline hposition hmoving hrate => ?within,
    fun hline hposition hmoving hrate => ?toEnd⟩
  case argument => rw [takeCommand_refused slot 0x12 _ .refusedArgument s (if_pos hbad)]
  case state =>
    refine congrArg Host.Outcome.next (takeCommand_refused slot 0x12 _ .refusedState s ?_)
    rw [songSeekOp, if_neg (by rintro (h | h); omega; exact absurd hposition (Nat.not_le.2 h))]
    exact if_neg (not_or.2 ⟨hrunning, hstalled⟩)
  case within =>
    obtain ⟨u, hu⟩ : ∃ u, soughtState position.toNat line.toNat (setFirstHalf none s) = u := ⟨_, rfl⟩
    obtain ⟨hclock, hchain, hnotes, hscore, hqueue, hraised, hframe⟩ := soughtState_spec _ _ _ hu
    have hop := hdone hline (Nat.le_of_lt hposition) hmoving
    rw [applySeek_eq, if_neg (show ¬ position.toNat = (setFirstHalf none s).clock.duration from Nat.ne_of_lt hposition), hu] at hop
    have htake := takeCommand_done slot 0x12 _ s u hop (by rw [hframe])
    refine ⟨_, congrArg Host.Outcome.next htake, rfl, hclock, ?_, hchain, hnotes, hscore, hqueue, hraised.done slot 0x12, ?_⟩
    · exact (congrArg SongClock.position hclock).trans (seek_playing_position hmoving hrate (Nat.le_of_lt hposition) _)
    · exact congrArg (fun x : State => { x with intake := doneRecord slot 0x12, statusGen := u.statusGen + 1 }) hframe
  case toEnd =>
    obtain ⟨u, hu⟩ : ∃ u, soughtState s.clock.duration line.toNat (setFirstHalf none s) = u := ⟨_, rfl⟩
    obtain ⟨v, hv⟩ : ∃ v, endSong .complete u = v := ⟨_, rfl⟩
    obtain ⟨hclock, hend, hchain, hnotes, hscore, hqueue, hraised, hframe⟩ :=
      endSong_sought (s := setFirstHalf none s) hmoving hrate hu hv
    have hop := hdone hline (Nat.le_of_eq hposition) hmoving
    rw [hposition, applySeek_eq,
      if_pos (show s.clock.duration = (setFirstHalf none s).clock.duration from rfl), hu, hv] at hop
    have htake := takeCommand_done slot 0x12 _ s v hop (by rw [hframe])
    rw [hposition]
    refine ⟨_, congrArg Host.Outcome.next htake, rfl, hclock, hend, hchain, hnotes, hscore, hqueue, hraised.done slot 0x12, ?_⟩
    exact congrArg (fun x : State => { x with intake := doneRecord slot 0x12, statusGen := v.statusGen + 1 }) hframe

end Sys2Proof.Machine
end

section
/-! SONG_LOAD (section 3.3). -/

namespace Sys2Proof.Machine

/-- The bounds of a SONG_LOAD whatever its source (R40). -/
def LoadBounds (a : SongLoadArgs) : Prop :=
  1 ≤ a.duration.toNat ∧ a.duration.toNat ≤ 1800000 ∧ 36 ≤ a.floorNote.toNat ∧ a.floorNote.toNat ≤ a.ceilNote.toNat ∧
    a.ceilNote.toNat ≤ 84

/-- The part of a load request that its source does not decide. -/
def loadRequest (a : SongLoadArgs) (direct : Option (Nat × Difficulty × Int)) : LoadRequest :=
  { direct := direct, parts := a.partMap, duration := a.duration.toNat, floorNote := a.floorNote.toNat, ceilNote := a.ceilNote.toNat }

theorem loadArguments_eq (a : SongLoadArgs) (hb : LoadBounds a) : loadArguments a =
    if a.source = 0 then some (loadRequest a none)
    else if a.source = 1 then
      match songOf a.song, difficultyOf a.difficulty, keyOf a.key with
      | some n, some d, some k => some (loadRequest a (some (n, d, k)))
      | _, _, _ => none
    else none := by
  obtain ⟨h1, h2, h3, h4, h5⟩ := hb
  unfold loadArguments
  refine if_pos ?_
  simp only [Bool.and_eq_true, decide_eq_true_eq]
  omega

theorem loadArguments_of_not_bounds {a : SongLoadArgs} (hb : ¬ LoadBounds a) : loadArguments a = none := by
  unfold loadArguments
  refine if_neg fun h => hb ?_
  simp only [Bool.and_eq_true, decide_eq_true_eq] at h
  unfold LoadBounds
  omega

theorem loadArguments_queue {a : SongLoadArgs} (hb : LoadBounds a) (hs : a.source = 0) :
    loadArguments a = some (loadRequest a none) := by
  rw [loadArguments_eq a hb, if_pos hs]

theorem loadArguments_direct {a : SongLoadArgs} (hb : LoadBounds a) (hs : a.source = 1) (h1 : 1 ≤ a.song.toNat)
    (h2 : a.song.toNat ≤ 999999) {d : Difficulty} (hd : difficultyOf a.difficulty = some d) (hk1 : -6 ≤ a.key.toInt)
    (hk2 : a.key.toInt ≤ 6) : loadArguments a = some (loadRequest a (some (a.song.toNat, d, a.key.toInt))) := by
  rw [loadArguments_eq a hb, if_neg (by rw [hs]; decide), if_pos hs, songOf_eq_some h1 h2, hd, keyOf_eq_some hk1 hk2]

/-- The arguments that SONG_LOAD accepts (R40). -/
def LoadLegal (a : SongLoadArgs) : Prop :=
  1 ≤ a.duration.toNat ∧ a.duration.toNat ≤ 1800000 ∧ 36 ≤ a.floorNote.toNat ∧ a.floorNote.toNat ≤ a.ceilNote.toNat ∧
    a.ceilNote.toNat ≤ 84 ∧
    (a.source = 0 ∨ a.source = 1 ∧ 1 ≤ a.song.toNat ∧ a.song.toNat ≤ 999999 ∧ a.difficulty.toNat ≤ 2 ∧
      -6 ≤ a.key.toInt ∧ a.key.toInt ≤ 6)

theorem loadLegal_iff (a : SongLoadArgs) : LoadLegal a ↔ LoadBounds a ∧
    (a.source = 0 ∨ a.source = 1 ∧ 1 ≤ a.song.toNat ∧ a.song.toNat ≤ 999999 ∧ a.difficulty.toNat ≤ 2 ∧
      -6 ≤ a.key.toInt ∧ a.key.toInt ≤ 6) := by
  simp only [LoadLegal, LoadBounds, and_assoc]

theorem difficultyOf_of_le {b : Byte} (h : b.toNat ≤ 2) : ∃ d, difficultyOf b = some d := by
  have hb : b = 0 ∨ b = 1 ∨ b = 2 := by bv_omega
  rcases hb with rfl | rfl | rfl
  · exact ⟨.easy, rfl⟩
  · exact ⟨.normal, rfl⟩
  · exact ⟨.hard, rfl⟩

theorem loadArguments_of_legal {a : SongLoadArgs} (h : LoadLegal a) : ∃ r, loadArguments a = some r := by
  obtain ⟨hb, hqueue | ⟨hdirect, hs1, hs2, hd, hk1, hk2⟩⟩ := (loadLegal_iff a).1 h
  · exact ⟨_, loadArguments_queue hb hqueue⟩
  · obtain ⟨d, hd⟩ := difficultyOf_of_le hd
    exact ⟨_, loadArguments_direct hb hdirect hs1 hs2 hd hk1 hk2⟩

theorem songOf_range {v : BitVec 24} {n : Nat} (h : songOf v = some n) : 1 ≤ v.toNat ∧ v.toNat ≤ 999999 := by
  by_contra hout
  rw [songOf_eq_none (by omega)] at h
  cases h

theorem loadArguments_legal {a : SongLoadArgs} {r : LoadRequest} (h : loadArguments a = some r) : LoadLegal a := by
  by_cases hb : LoadBounds a
  · rw [loadLegal_iff]
    refine ⟨hb, ?_⟩
    rw [loadArguments_eq a hb] at h
    split at h
    case isTrue hqueue => exact .inl hqueue
    case isFalse =>
      split at h
      case isFalse => cases h
      case isTrue hdirect =>
        split at h
        case h_2 => cases h
        case h_1 hsong hdifficulty hkey =>
          obtain ⟨hs1, hs2⟩ := songOf_range hsong
          exact .inr ⟨hdirect, hs1, hs2, difficultyOf_range hdifficulty, keyOf_range hkey⟩
  · rw [loadArguments_of_not_bounds hb] at h
    cases h

theorem loadable_iff (c : SongClock) : c.loadable = true ↔ c.state = .idle ∨ c.state = .ended ∧ c.postingDone = true := by
  simp only [SongClock.loadable, Bool.or_eq_true, Bool.and_eq_true, decide_eq_true_eq]

theorem exec_songLoad {s : State} (hup : s.busUp = true) (slot : CmdSlot) (a : SongLoadArgs) :
    exec (.songLoad slot a) s = .next (takeCommand slot 0x10 (songLoadOp a) s) := handOver_of_busUp hup _

theorem takeFor_empty {q : Queue} {r : LoadRequest} (hr : r.direct = none) (hnone : ∀ e ∈ q.entries, e.state ≠ .queued) :
    q.takeFor r = none := by
  have hfirst : q.firstQueued = none := findIdx?_none fun e he => decide_eq_false (hnone e he)
  rw [Queue.takeFor, hr]
  simp only [hfirst]

theorem takeFor_first {q : Queue} {r : LoadRequest} (hr : r.direct = none) {pre post : List Entry} {e : Entry}
    (hlist : q.entries = pre ++ e :: post) (hpre : ∀ x ∈ pre, x.state ≠ .queued) (he : e.state = .queued) :
    q.takeFor r = some (e.taken, pre ++ post) := by
  have hfirst : q.firstQueued = some pre.length := by
    rw [Queue.firstQueued, hlist]
    exact findIdx?_first post (fun x hx => decide_eq_false (hpre x hx)) (decide_eq_true he)
  have hget : q.entries[pre.length]? = some e := by simp [hlist]
  have herase : q.entries.eraseIdx pre.length = pre ++ post := by
    rw [hlist, List.eraseIdx_append_of_length_le (Nat.le_refl _), Nat.sub_self, List.eraseIdx_cons_zero]
  rw [Queue.takeFor, hr]
  simp only [hfirst, hget, herase]

theorem songLoadOp_busy {a : SongLoadArgs} {r : LoadRequest} (h : loadArguments a = some r) {s : State}
    (hbusy : ¬ s.clock.loadable = true) : songLoadOp a s = (.refusedState, s) := by
  simp only [songLoadOp, h]
  exact if_neg hbusy

theorem songLoadOp_empty {a : SongLoadArgs} {r : LoadRequest} (h : loadArguments a = some r) {s : State}
    (hready : s.clock.loadable = true) (htake : s.queue.takeFor r = none) : songLoadOp a s = (.refusedEmpty, s) := by
  simp only [songLoadOp, h, hready, if_true, htake]

theorem songLoadOp_done {a : SongLoadArgs} {r : LoadRequest} (h : loadArguments a = some r) {s : State}
    (hready : s.clock.loadable = true) {n : NowPlaying} {es : List Entry} (htake : s.queue.takeFor r = some (n, es)) :
    songLoadOp a s = (.done, applyLoad r n es s) := by
  simp only [songLoadOp, h, hready, if_true, htake]

/-- Settles O27: the arguments, then the state, then the queue. -/
theorem songLoadChecksInOrder : Obligations.SongLoadChecksInOrder := by
  intro slot a s hup legal loadable
  rw [exec_songLoad hup]
  refine ⟨fun hbad => ?_, fun hlegal hbusy => ?_, fun hlegal hready hqueue hempty => ?_⟩
  · have hnone : loadArguments a = none := by
      cases hr : loadArguments a with
      | none => rfl
      | some r => exact absurd (loadArguments_legal hr) hbad
    have hop : songLoadOp a (setFirstHalf none s) = (.refusedArgument, setFirstHalf none s) := by rw [songLoadOp, hnone]
    rw [takeCommand_refused slot 0x10 _ _ s hop]
  · obtain ⟨r, hr⟩ := loadArguments_of_legal hlegal
    have hop : songLoadOp a (setFirstHalf none s) = (.refusedState, setFirstHalf none s) :=
      songLoadOp_busy hr (mt (loadable_iff s.clock).1 hbusy)
    rw [takeCommand_refused slot 0x10 _ _ s hop]
  · have hr := loadArguments_queue ((loadLegal_iff a).1 hlegal).1 hqueue
    have htake : (setFirstHalf none s).queue.takeFor (loadRequest a none) = none := takeFor_empty rfl hempty
    have hop : songLoadOp a (setFirstHalf none s) = (.refusedEmpty, setFirstHalf none s) :=
      songLoadOp_empty hr ((loadable_iff s.clock).2 hready) htake
    rw [takeCommand_refused slot 0x10 _ _ s hop]

/-- A load that is DONE, from the song it takes and the entries it leaves. -/
theorem songLoaded_of_take {slot : CmdSlot} {a : SongLoadArgs} {s : State} {direct : Option (Nat × Difficulty × Int)} {n : NowPlaying}
    {es : List Entry} (hr : loadArguments a = some (loadRequest a direct)) (hready : s.clock.loadable = true)
    (htake : s.queue.takeFor (loadRequest a direct) = some (n, es)) :
    ∃ t, takeCommand slot 0x10 (songLoadOp a) s = t ∧ SongLoaded s t slot a n es := by
  obtain ⟨u, hu⟩ : ∃ u, applyLoad (loadRequest a direct) n es (setFirstHalf none s) = u := ⟨_, rfl⟩
  have hop : songLoadOp a (setFirstHalf none s) = (.done, u) :=
    (songLoadOp_done (s := setFirstHalf none s) hr hready htake).trans (congrArg (Prod.mk CmdOutcome.done) hu)
  have hload := applyLoad_eq (loadRequest a direct) n es (setFirstHalf none s)
  rw [hu] at hload
  have hgen : u.statusGen + 1 = s.statusGen + (if s.events.getLsbD 14 = true then 1 else 2) := by
    rw [hload]
    change s.statusGen + (if s.events.getLsbD 14 = true then 0 else 1) + 1 = _
    split
    · simp
    · rw [BitVec.add_assoc]; rfl
  have hscore : u.score = { s.score with channels := u.score.channels } := by rw [hload]; rfl
  have hframe : u = { setFirstHalf none s with
      clock := u.clock, queue := u.queue, compositor := u.compositor, lyrics := u.lyrics, framers := u.framers
      score := u.score, handsets := u.handsets, events := u.events, statusGen := u.statusGen } := by
    rw [hload]
  refine ⟨_, takeCommand_done slot 0x10 _ s u hop (by rw [hload]), ?_⟩
  refine ⟨congrArg State.clock hload, congrArg State.queue hload, congrArg State.compositor hload, ?_, fun c => ?_, fun c => ?_,
    fun h => ?_, congrArg (·.handsets.votePassed) hload, congrArg (·.handsets.gen) hload, hscore,
    congrArg State.events hload, hgen, rfl, ?_⟩
  · exact congrArg State.lyrics hload ▸ clearChain_cleared 0 s
  · exact (congrArg (·.framers[c]) hload).trans (mapAll_get _ _ _)
  · exact (congrArg (·.score.channels[c]) hload).trans (loadChannels_get _ _ _ _ c)
  · exact (congrArg (·.handsets.records[h]) hload).trans (mapAll_get _ _ _)
  · exact congrArg (fun x : State => { x with intake := doneRecord slot 0x10, statusGen := u.statusGen + 1 }) hframe

/-- Settles O28: the song taken from the queue's first QUEUED entry, or given by the command. -/
theorem songLoadTakesTheSong : Obligations.SongLoadTakesTheSong := by
  intro slot a s hup h1 h2 h3 h4 h5 hready
  have hb : LoadBounds a := ⟨h1, h2, h3, h4, h5⟩
  have hloadable := (loadable_iff s.clock).2 hready
  rw [exec_songLoad hup]
  refine ⟨fun pre e post hqueue hlist hpre he => ?_, fun diff hdirect hs1 hs2 hdiff hk1 hk2 => ?_⟩
  · obtain ⟨t, ht, hloaded⟩ := songLoaded_of_take (slot := slot) (loadArguments_queue hb hqueue) hloadable
      (takeFor_first rfl hlist hpre he)
    exact ⟨t, congrArg Host.Outcome.next ht, hloaded⟩
  · obtain ⟨t, ht, hloaded⟩ := songLoaded_of_take (slot := slot) (s := s)
      (loadArguments_direct hb hdirect hs1 hs2 hdiff hk1 hk2) hloadable rfl
    exact ⟨t, congrArg Host.Outcome.next ht, hloaded⟩

end Sys2Proof.Machine
end

section
/-! The room: ROOM_OPEN, ROOM_EXTEND, ROOM_CLOSE and the seconds of an open room (section 9.6). -/

namespace Sys2Proof.Machine

theorem clearQueue_eq_frame (s : State) : clearQueue s = { s with
    queue := (clearQueue s).queue, events := (clearQueue s).events, statusGen := (clearQueue s).statusGen } := by
  unfold clearQueue
  split
  · rfl
  · rw [queueChanged_eq]; rfl

theorem vacateHandsets_eq_frame (s : State) : vacateHandsets s = { s with
    handsets := (vacateHandsets s).handsets, events := (vacateHandsets s).events, statusGen := (vacateHandsets s).statusGen } := by
  rw [vacateHandsets_eq, raiseIf_eq]
  split <;> rfl

/-- The queue emptied and every handset's record vacated (R137, R169, R171). -/
theorem vacated_spec {s t : State} (ht : vacateHandsets (clearQueue s) = t) :
    t.queue = emptiedQueue s.queue ∧ HandsetsVacated s t ∧
      Raised s t 0 (fun n => n = 12 ∧ (∃ h : Fin 16, (s.handsets.records[h]).state ≠ .absent) ∨ n = 14 ∧ s.queue.entries ≠ []) ∧
      t = { s with queue := t.queue, handsets := t.handsets, events := t.events, statusGen := t.statusGen } := by
  have hqueue := clearQueue_queue s
  have hclear := clearQueue_eq_frame s
  have hraised := (Raised.refl s).clearQueue.vacateHandsets
  rw [ht] at hraised
  generalize clearQueue s = u at ht hqueue hclear hraised
  have hhandsets : u.handsets = s.handsets := by rw [hclear]
  have hvacated := vacateHandsets_vacated u
  have hframe := vacateHandsets_eq_frame u
  rw [ht] at hvacated hframe
  refine ⟨?_, ?_, hraised.iff fun n => ?_, ?_⟩
  · rw [hframe]
    exact hqueue
  · unfold HandsetsVacated at hvacated ⊢
    rwa [hhandsets] at hvacated
  · rw [hhandsets, false_or, or_comm]
  · have htqueue : t.queue = u.queue := by rw [hframe]
    rw [htqueue]
    exact hframe.trans (congrArg (fun x : State =>
      { x with handsets := t.handsets, events := t.events, statusGen := t.statusGen }) hclear)

theorem standbyEvaluate_nil {s : State} (h : s.queue.entries = []) : standbyEvaluate s = s := by
  rw [standbyEvaluate, h]
  rfl

/-- All that a booking's beginning does (R137, R169). -/
theorem applyRoomOpen_spec {r : Nat} {s t : State} (ht : applyRoomOpen r s = t) :
    t.room = { state := .opened, remaining := r, timer := some s.timebase } ∧ t.queue = emptiedQueue s.queue ∧
      HandsetsVacated s t ∧ t.score = { s.score with board := Vector.replicate 16 BoardEntry.reset } ∧
      Raised s t 0 (fun n => n = 12 ∧ (∃ h : Fin 16, (s.handsets.records[h]).state ≠ .absent) ∨
        n = 14 ∧ s.queue.entries ≠ [] ∨ n = 15 ∧ r ≤ 300) ∧
      t = { s with
        room := t.room, queue := t.queue, handsets := t.handsets, score := { s.score with board := t.score.board }
        events := t.events, statusGen := t.statusGen } := by
  obtain ⟨v, hv⟩ : ∃ v, vacateHandsets (clearQueue (setRoom .opened r (some s.timebase) s)) = v := ⟨_, rfl⟩
  obtain ⟨hqueue, hvacated, hraised, hframe⟩ := vacated_spec hv
  have hlow := ((hraised.congr (u := clearBoard v) rfl rfl).signalledIf (decide (r ≤ 300)) .roomTimeLow (by decide))
  have hstep : applyRoomOpen r s = standbyEvaluate (raiseIf (decide (r ≤ 300)) .roomTimeLow (clearBoard v)) := by rw [← hv]; rfl
  have hlowframe := raiseIf_eq_frame (decide (r ≤ 300)) .roomTimeLow (clearBoard v)
  rw [ht] at hstep
  generalize raiseIf (decide (r ≤ 300)) .roomTimeLow (clearBoard v) = w at hlow hstep hlowframe
  have hwqueue : w.queue = emptiedQueue s.queue := by rw [hlowframe]; exact hqueue
  rw [standbyEvaluate_nil (by rw [hwqueue]; rfl)] at hstep
  subst hstep
  have hscore : t.score = { s.score with board := Vector.replicate 16 BoardEntry.reset } := by
    rw [hlowframe]
    exact congrArg (fun x : State => { x.score with board := Vector.replicate 16 BoardEntry.reset }) hframe
  have hhandsets : t.handsets = v.handsets := by rw [hlowframe]; rfl
  have hroom : t.room = { state := .opened, remaining := r, timer := some s.timebase } := by
    rw [hlowframe]
    exact congrArg State.room hframe
  refine ⟨hroom, hwqueue, ?_, hscore, (hlow.source rfl rfl).iff fun n => ?_, ?_⟩
  · unfold HandsetsVacated at hvacated ⊢
    rw [hhandsets]
    exact hvacated
  · rw [decide_eq_true_iff, or_assoc]
    exact Iff.rfl
  · have hboard : t.score.board = Vector.replicate 16 BoardEntry.reset := by rw [hscore]
    have htqueue : t.queue = v.queue := by rw [hlowframe]; rfl
    rw [hroom, hhandsets, hboard, htqueue]
    exact hlowframe.trans (congrArg (fun x : State =>
      { clearBoard x with events := t.events, statusGen := t.statusGen }) hframe)

/-- Settles O44: the refusals, then the booking block by block. -/
theorem roomOpenBeginsBooking : Obligations.RoomOpenBeginsBooking := by
  intro slot seconds s hup
  have hexec : exec (.roomOpen slot seconds) s = .next (takeCommand slot 0x50 (roomOpenOp seconds) s) := handOver_of_busUp hup _
  rw [hexec]
  refine ⟨fun hbad => ?argument, fun hleast hmost hbusy => ?state, fun hleast hmost hclosed => ?opens⟩
  case argument => rw [takeCommand_refused slot 0x50 _ .refusedArgument s (if_pos hbad)]
  case state =>
    rw [takeCommand_refused slot 0x50 _ .refusedState s ((if_neg (by omega)).trans (if_neg hbusy))]
  case opens =>
    obtain ⟨u, hu⟩ : ∃ u, applyRoomOpen seconds.toNat (setFirstHalf none s) = u := ⟨_, rfl⟩
    obtain ⟨hroom, hqueue, hvacated, hscore, hraised, hframe⟩ := applyRoomOpen_spec hu
    have hop : roomOpenOp seconds (setFirstHalf none s) = (.done, u) :=
      ((if_neg (by omega)).trans (if_pos hclosed)).trans (congrArg (Prod.mk CmdOutcome.done) hu)
    have htake := takeCommand_done slot 0x50 _ s u hop (by rw [hframe])
    refine ⟨_, congrArg Host.Outcome.next htake, rfl, hroom, hqueue, hvacated, fun h => ?_, hraised.done slot 0x50, ?_⟩
    · have hboard : u.score.board = Vector.replicate 16 BoardEntry.reset := by rw [hscore]
      exact (congrArg (·[h]) hboard).trans (Vector.getElem_replicate _)
    · exact congrArg (fun x : State => { x with intake := doneRecord slot 0x50, statusGen := u.statusGen + 1 }) hframe

/-! ### ROOM_EXTEND and ROOM_CLOSE (R170, R171) -/

/-- An evaluation at the end of a command, from a state whose queue is the old one. -/
theorem standbyEvaluate_spec {s t : State} (ht : standbyEvaluate s = t) {n : Nat} {s0 : State} {p : Nat → Prop}
    (hraised : Raised s0 s n p) :
    t.queue = evaluatedQueue t s.queue ∧
      Raised s0 t n (fun k => p k ∨ k = 14 ∧ evaluated t s.queue.entries ≠ s.queue.entries) ∧
      t = { s with queue := t.queue, events := t.events, statusGen := t.statusGen } := by
  have hframe := standbyEvaluate_eq_frame s
  have hqueue := standbyEvaluate_queue s
  have hraised' := hraised.standbyEvaluate
  have heval : evaluated t = evaluated s := by
    rw [← ht]
    exact funext (evaluated_standbyEvaluate s)
  rw [ht] at hframe hqueue hraised'
  refine ⟨?_, hraised'.iff fun k => by rw [heval], hframe⟩
  rw [hqueue, evaluatedQueue, evaluatedQueue, heval]

theorem roomExtendOp_opened {seconds : BitVec 32} (hleast : 1 ≤ seconds.toNat) (hmost : seconds.toNat ≤ 86400) {s : State}
    (hroom : s.room.state = .opened) : roomExtendOp seconds s =
      (.done, standbyEvaluate (setRoom .opened (min (s.room.remaining + seconds.toNat) 86400) s.room.timer s)) := by
  rw [roomExtendOp, if_neg (by omega), hroom]

theorem roomExtendOp_overtime {seconds : BitVec 32} (hleast : 1 ≤ seconds.toNat) (hmost : seconds.toNat ≤ 86400) {s : State}
    (hroom : s.room.state = .overtime) : roomExtendOp seconds s =
      (.done, standbyEvaluate (raiseIfLow seconds.toNat (setRoom .opened seconds.toNat (some s.timebase) s))) := by
  rw [roomExtendOp, if_neg (by omega), hroom]

theorem roomExtendOp_closed {seconds : BitVec 32} (hleast : 1 ≤ seconds.toNat) (hmost : seconds.toNat ≤ 86400) {s : State}
    (hroom : s.room.state = .closed) : roomExtendOp seconds s = (.refusedState, s) := by
  rw [roomExtendOp, if_neg (by omega), hroom]

/-- An extension, by the state of the room (R170). -/
theorem roomExtendOp_spec {seconds : BitVec 32} (hleast : 1 ≤ seconds.toNat) (hmost : seconds.toNat ≤ 86400) {s : State}
    (hroom : s.room.state ≠ .closed) : ∃ t, roomExtendOp seconds s = (.done, t) ∧
      t.room =
        (if s.room.state = .opened then { s.room with remaining := min (s.room.remaining + seconds.toNat) 86400 }
        else { state := .opened, remaining := seconds.toNat, timer := some s.timebase }) ∧
      t.queue = evaluatedQueue t s.queue ∧
      Raised s t 0 (fun n => n = 14 ∧ evaluated t s.queue.entries ≠ s.queue.entries ∨
        n = 15 ∧ s.room.state = .overtime ∧ seconds.toNat ≤ 300) ∧
      t = { s with room := t.room, queue := t.queue, events := t.events, statusGen := t.statusGen } := by
  by_cases hopen : s.room.state = .opened
  · let u := setRoom .opened (min (s.room.remaining + seconds.toNat) 86400) s.room.timer s
    obtain ⟨t, ht⟩ : ∃ t, standbyEvaluate u = t := ⟨_, rfl⟩
    obtain ⟨hqueue, hraised, hframe⟩ := standbyEvaluate_spec ht ((Raised.refl s).congr (u := u) rfl rfl)
    have htroom : t.room = u.room := by rw [hframe]
    refine ⟨t, (roomExtendOp_opened hleast hmost hopen).trans (congrArg (Prod.mk CmdOutcome.done) ht), ?_, hqueue,
      hraised.iff fun n => ?_, ?_⟩
    · rw [if_pos hopen, htroom]
      simp only [u, setRoom, hopen]
    · simp only [hopen, reduceCtorEq, false_and, and_false, or_false, false_or]
      exact Iff.rfl
    · rw [htroom]
      exact hframe
  · have hover : s.room.state = .overtime := by
      cases hst : s.room.state with
      | opened => exact absurd hst hopen
      | closed => exact absurd hst hroom
      | overtime => rfl
    have hlow := ((Raised.refl s).congr (u := setRoom .opened seconds.toNat (some s.timebase) s) rfl rfl).signalledIf
      (decide (seconds.toNat ≤ 300)) .roomTimeLow (by decide)
    have hlowframe := raiseIf_eq_frame (decide (seconds.toNat ≤ 300)) .roomTimeLow (setRoom .opened seconds.toNat (some s.timebase) s)
    have hop := roomExtendOp_overtime hleast hmost hover
    rw [raiseIfLow] at hop
    generalize raiseIf (decide (seconds.toNat ≤ 300)) .roomTimeLow (setRoom .opened seconds.toNat (some s.timebase) s) = u
      at hlow hlowframe hop
    obtain ⟨t, ht⟩ : ∃ t, standbyEvaluate u = t := ⟨_, rfl⟩
    obtain ⟨hqueue, hraised, hframe⟩ := standbyEvaluate_spec ht hlow
    have huqueue : u.queue = s.queue := by rw [hlowframe]; rfl
    have hroom' : t.room = { state := .opened, remaining := seconds.toNat, timer := some s.timebase } := by
      rw [hframe, hlowframe]
      rfl
    rw [huqueue] at hqueue hraised
    refine ⟨t, hop.trans (congrArg (Prod.mk CmdOutcome.done) ht), by rw [if_neg hopen, hroom'], hqueue, hraised.iff fun n => ?_, ?_⟩
    · rw [decide_eq_true_iff, hover, false_or, or_comm]
      simp only [true_and]
      exact Iff.rfl
    · rw [hroom']
      exact hframe.trans (congrArg (fun x : State =>
        { x with queue := t.queue, events := t.events, statusGen := t.statusGen }) hlowframe)

theorem roomCloseOp_refused {s : State} (h : s.room.state = .closed ∨ s.clock.loadable = false) :
    roomCloseOp s = (.refusedState, s) := if_pos h

theorem roomCloseOp_done {s : State} (hroom : s.room.state ≠ .closed) (hready : s.clock.loadable = true) :
    roomCloseOp s = (.done, vacateHandsets (clearQueue (setRoom .closed 0 none s))) :=
  if_neg (by rintro (h | h); exact hroom h; rw [h] at hready; cases hready)

/-- Settles O45: an extension by the room state, then the close with no song in the way. -/
theorem roomExtendAndClose : Obligations.RoomExtendAndClose := by
  intro slot seconds s hup
  have hextend : exec (.roomExtend slot seconds) s = .next (takeCommand slot 0x51 (roomExtendOp seconds) s) :=
    handOver_of_busUp hup _
  have hclose : exec (.roomClose slot) s = .next (takeCommand slot 0x52 roomCloseOp s) := handOver_of_busUp hup _
  rw [hextend, hclose]
  refine ⟨fun hleast hmost hroom => ?extend, fun hleast hmost hclosed => ?closed, fun hbad => ?argument, fun hroom hready => ?close,
    fun hbusy => ?busy⟩
  case extend =>
    obtain ⟨u, hop, huroom, hqueue, hraised, hframe⟩ := roomExtendOp_spec (s := setFirstHalf none s) hleast hmost hroom
    have htake := takeCommand_done slot 0x51 _ s u hop (by rw [hframe])
    exact ⟨_, congrArg Host.Outcome.next htake, rfl, huroom, hqueue, hraised.done slot 0x51,
      congrArg (fun x : State => { x with intake := doneRecord slot 0x51, statusGen := u.statusGen + 1 }) hframe⟩
  case closed => rw [takeCommand_refused slot 0x51 _ .refusedState s (roomExtendOp_closed hleast hmost hclosed)]
  case argument =>
    have hout : seconds.toNat < 1 ∨ 86400 < seconds.toNat := by
      rcases hbad with rfl | h
      · exact .inl (by decide)
      · exact .inr h
    rw [takeCommand_refused slot 0x51 _ .refusedArgument s (if_pos hout)]
  case close =>
    obtain ⟨u, hu⟩ : ∃ u, vacateHandsets (clearQueue (setRoom .closed 0 none (setFirstHalf none s))) = u := ⟨_, rfl⟩
    obtain ⟨hqueue, hvacated, hraised, hframe⟩ := vacated_spec hu
    have hop : roomCloseOp (setFirstHalf none s) = (.done, u) :=
      (roomCloseOp_done (s := setFirstHalf none s) hroom ((loadable_iff s.clock).2 hready)).trans
        (congrArg (Prod.mk CmdOutcome.done) hu)
    have htake := takeCommand_done slot 0x52 _ s u hop (by rw [hframe]; rfl)
    have huroom : u.room = { state := .closed, remaining := 0, timer := none } := by rw [hframe]; rfl
    refine ⟨_, congrArg Host.Outcome.next htake, rfl, huroom, hqueue, hvacated, Raised.done slot 0x52 (hraised.source rfl rfl), ?_⟩
    have hkept : u = { setFirstHalf none s with
        room := u.room, queue := u.queue, handsets := u.handsets, events := u.events, statusGen := u.statusGen } := by
      rw [huroom]
      exact hframe
    exact congrArg (fun x : State => { x with intake := doneRecord slot 0x52, statusGen := u.statusGen + 1 }) hkept
  case busy =>
    have hrefused : s.room.state = .closed ∨ s.clock.loadable = false := by
      rcases hbusy with h | h | ⟨h, hdone⟩
      · exact .inl h
      · refine .inr (Bool.eq_false_iff.2 fun hready => ?_)
        rcases (loadable_iff s.clock).1 hready with hs | ⟨hs, -⟩ <;> rw [hs] at h <;> cases h
      · refine .inr (Bool.eq_false_iff.2 fun hready => ?_)
        rcases (loadable_iff s.clock).1 hready with hs | ⟨-, hd⟩
        · rw [hs] at h; cases h
        · rw [hdone] at hd; cases hd
    rw [takeCommand_refused slot 0x52 roomCloseOp .refusedState s (roomCloseOp_refused hrefused)]

/-! ### The seconds of an open room (R168) -/

/-- The room after a second, before an evaluation. -/
theorem second_spec (r : Nat) (s : State) : ∃ u,
    applySecond r s = (if r % 60 = 0 then standbyEvaluate u else u) ∧
      u.room = (if r = 0 then { state := .overtime, remaining := 0, timer := none }
        else { state := .opened, remaining := r, timer := some s.timebase }) ∧
      Raised s u 0 (fun n => n = 15 ∧ (r = 300 ∨ r = 0)) ∧
      u = { s with room := u.room, events := u.events, statusGen := u.statusGen } ∧
      (r % 60 ≠ 0 → u = { s with room := u.room }) := by
  by_cases hzero : r = 0
  · subst hzero
    refine ⟨signalled 15 (setRoom .overtime 0 none s), ?_, rfl, ?_, rfl, fun h => absurd rfl h⟩
    · rw [applySecond, if_pos rfl, if_pos rfl, raise_eq]
      rfl
    · exact ((((Raised.refl s).congr (u := setRoom .overtime 0 none s) rfl rfl)).signalled (n := 15) (by decide)).iff fun n => by simp
  · let v := setRoom .opened r (some s.timebase) s
    have hframe := raiseIf_eq_frame (decide (r = 300)) .roomTimeLow v
    have hraised := ((Raised.refl s).congr (u := v) rfl rfl).signalledIf (decide (r = 300)) .roomTimeLow (by decide)
    have hquiet : r % 60 ≠ 0 → raiseIf (decide (r = 300)) .roomTimeLow v = v := fun hr => by
      rw [raiseIf_eq, if_neg (by rw [decide_eq_true_iff]; omega)]
    have hstep : applySecond r s = if r % 60 = 0 then standbyEvaluate (raiseIf (decide (r = 300)) .roomTimeLow v)
        else raiseIf (decide (r = 300)) .roomTimeLow v := by
      rw [applySecond, if_neg hzero]
    generalize raiseIf (decide (r = 300)) .roomTimeLow v = u at hframe hraised hquiet hstep
    have huroom : u.room = v.room := by rw [hframe]
    refine ⟨u, hstep, by rw [if_neg hzero, huroom]; rfl, hraised.iff fun n => ?_, by rw [huroom]; exact hframe,
      fun hr => by rw [huroom]; exact hquiet hr⟩
    simp only [false_or, decide_eq_true_eq, hzero, or_false]
    exact Iff.rfl

/-- Settles O46: the second by its remaining time, and an evaluation at each whole minute. -/
theorem roomSecondCountsDown : Obligations.RoomSecondCountsDown := by
  intro s start hopen htimer hlong hleast
  have hdue : secondDue s = true := (secondDue_iff s).2 ⟨hopen, start, htimer, hlong⟩
  obtain ⟨u, hstep, huroom, hraised, hframe, hquiet⟩ := second_spec (s.room.remaining - 1) s
  have huqueue : u.queue = s.queue := by rw [hframe]
  have hruled : u.room = (if s.room.remaining = 1 then { state := .overtime, remaining := 0, timer := none }
      else { state := .opened, remaining := s.room.remaining - 1, timer := some s.timebase }) := by
    rw [huroom]
    exact if_congr (by omega) rfl rfl
  have hlow (n : Nat) : (n = 15 ∧ (s.room.remaining - 1 = 300 ∨ s.room.remaining - 1 = 0)) ↔
      n = 15 ∧ (s.room.remaining = 301 ∨ s.room.remaining = 1) := and_congr_right fun _ => by omega
  have hexec : exec .roomSecondExpiry s = .next (applySecond (s.room.remaining - 1) s) := congrArg Host.Outcome.next (if_pos hdue)
  by_cases hminute : (s.room.remaining - 1) % 60 = 0
  · rw [if_pos hminute] at hstep
    obtain ⟨t, ht⟩ : ∃ t, standbyEvaluate u = t := ⟨_, rfl⟩
    obtain ⟨hqueue, hraised', hframe'⟩ := standbyEvaluate_spec ht hraised
    have htroom : t.room = u.room := by rw [hframe']
    rw [huqueue] at hqueue hraised'
    refine ⟨t, by rw [hexec, hstep, ht], htroom.trans hruled, fun _ => hqueue, fun h => absurd hminute h, hraised'.iff fun n => ?_, ?_⟩
    · rw [hlow, eq_true hminute, true_and]
    · rw [htroom]
      exact hframe'.trans (congrArg (fun x : State =>
        { x with queue := t.queue, events := t.events, statusGen := t.statusGen }) hframe)
  · rw [if_neg hminute] at hstep
    refine ⟨u, by rw [hexec, hstep], hruled, fun h => absurd h hminute, fun _ => hquiet hminute, hraised.iff fun n => ?_, ?_⟩
    · rw [hlow, eq_false hminute, false_and, and_false, or_false]
    · rw [huqueue]
      exact hframe

end Sys2Proof.Machine
end

section
/-! The queue: the standby walk and the staff commands (sections 9.3, 9.4). -/

namespace Sys2Proof.Machine

/-! ### The standby walk (R160, R161) -/

/-- The seconds that the QUEUED entries of a list take. -/
def queuedLoad (l : List Entry) : Nat := ((l.filter (fun e => decide (e.state = .queued))).map Entry.duration).sum

theorem queuedLoad_cons (e : Entry) (l : List Entry) :
    queuedLoad (e :: l) = (if e.state = .queued then e.duration else 0) + queuedLoad l := by
  by_cases h : e.state = .queued <;> simp [queuedLoad, h]

theorem standbyWalk_load (budget : Nat) (es : List Entry) :
    ∀ sum, sum ≤ budget → sum + queuedLoad (standbyWalk budget sum es) ≤ budget := by
  induction es with
  | nil => exact fun sum h => h
  | cons e es ih =>
    intro sum hsum
    unfold standbyWalk
    split_ifs with hwaiting hfits
    · rw [queuedLoad_cons, if_neg (by simp [hwaiting]), Nat.zero_add]
      exact ih sum hsum
    · rw [queuedLoad_cons, if_pos rfl, ← Nat.add_assoc]
      exact ih _ hfits
    · rw [queuedLoad_cons, if_neg (by simp), Nat.zero_add]
      exact ih sum hsum

theorem standbyWalk_waiting (budget : Nat) (es : List Entry) :
    ∀ (sum n : Nat) (x e : Entry), es[n]? = some x → (standbyWalk budget sum es)[n]? = some e →
      (x.state = .waiting ↔ e.state = .waiting) := by
  induction es with
  | nil => exact fun _ _ _ _ h => by simp at h
  | cons a es ih =>
    intro sum n x e hx he
    unfold standbyWalk at he
    cases n with
    | zero =>
      cases hx
      split_ifs at he with hwaiting <;> cases he <;> simp [hwaiting]
    | succ n => split_ifs at he <;> exact ih _ n x e hx he

theorem standbyWalk_standby (budget : Nat) (es : List Entry) :
    ∀ (sum n : Nat) (e : Entry), (standbyWalk budget sum es)[n]? = some e → e.state = .standby →
      budget < sum + queuedLoad ((standbyWalk budget sum es).take n) + e.duration := by
  induction es with
  | nil => exact fun _ _ _ h => by simp [standbyWalk] at h
  | cons a es ih =>
    intro sum n e he hstandby
    unfold standbyWalk at he ⊢
    cases n with
    | zero =>
      split_ifs at he ⊢ with hwaiting hfits
      · cases he; rw [hwaiting] at hstandby; cases hstandby
      · cases he; cases hstandby
      · cases he; simpa [queuedLoad] using Nat.lt_of_not_le hfits
    | succ n =>
      split_ifs at he ⊢ with hwaiting hfits
      · rw [List.take_succ_cons, queuedLoad_cons, if_neg (by simp [hwaiting]), Nat.zero_add]
        exact ih sum n e he hstandby
      · rw [List.take_succ_cons, queuedLoad_cons, if_pos rfl, ← Nat.add_assoc sum]
        exact ih _ n e he hstandby
      · rw [List.take_succ_cons, queuedLoad_cons, if_neg (by simp), Nat.zero_add]
        exact ih sum n e he hstandby

theorem inProgress_iff (x : SongState) : x.inProgress = true ↔ x = .loaded ∨ x = .armed ∨ x = .running ∨ x = .stalled := by
  cases x <;> simp [SongState.inProgress]

/-- Settles O40: the walk's facts by induction on the entries, from any running sum. -/
theorem standbyWalkIsFirstFit : Obligations.StandbyWalkIsFirstFit := by
  refine ⟨fun s => ?_, fun budget es => ?_⟩
  · intro percent needs
    have hpercent : standbyPercent s.anchor.bytes = percent := by
      simp only [standbyPercent, Mem.field_one, defaulted, clampNat, percent, rangedField, Nat.min_comm]
    have hneeds : s.clock.remainingSeconds = needs := if_congr (inProgress_iff _) rfl rfl
    refine ⟨fun hopen => ?_, fun hother => ?_, fun es => rfl⟩
    · rw [State.budget, hopen, hpercent, hneeds]
    · unfold State.budget
      split
      case h_1 hopen => exact absurd hopen hother
      all_goals rfl
  · intro out load
    refine ⟨standbyWalk_map _ (fun _ _ => rfl) budget es 0, ?_, standbyWalk_waiting budget es 0, fun n e he hstandby => ?_⟩
    · have hload := standbyWalk_load budget es 0 (Nat.zero_le _)
      rwa [Nat.zero_add] at hload
    · have hlong := standbyWalk_standby budget es 0 n e he hstandby
      rwa [Nat.zero_add] at hlong

/-! ### The changes of the staff commands (R153) -/

/-- A change of the queue and the evaluation after it, counted together. -/
theorem changedAndEvaluated_queue (q : Queue) (s : State) :
    standbyEvaluate (queueChanged { s with queue := q }) = signalled 14 { s with queue := { q with
      entries := evaluated s q.entries, gen := q.gen + (if evaluated s q.entries = q.entries then 1 else 2) } } := by
  rw [queueChanged_eq]
  obtain ⟨u, hu⟩ : ∃ u, signalled 14 { s with queue := { q with gen := q.gen + 1 } } = u := ⟨_, rfl⟩
  have hpending : u.events.getLsbD 14 = true := by rw [← hu]; exact signalled_pending (by decide) _
  have hqueue : u.queue = { q with gen := q.gen + 1 } := by rw [← hu]; rfl
  have heval : evaluated u q.entries = evaluated s q.entries := by rw [← hu]; exact evaluated_congr rfl rfl rfl _
  have hcounted := standbyEvaluate_counted u q hpending hqueue
  have hframe := standbyEvaluate_pending u hpending
  rw [heval] at hcounted
  have hall : standbyEvaluate u = { u with queue := (standbyEvaluate u).queue } := by rw [hframe]
  refine (congrArg standbyEvaluate hu).trans ?_
  rw [hall, hcounted, ← hu]
  rfl

theorem changedAndEvaluated_eq (es : List Entry) (tag : Nat) (s : State) :
    standbyEvaluate (queueChanged { s with queue := { s.queue with entries := es, nextTag := tag } }) = afterQueueChange es tag s :=
  changedAndEvaluated_queue _ s

theorem placeAt_placed {α : Type} (l : List α) (n : Nat) (x : α) :
    (n = 0 ∨ l.length < n → placeAt l n x = l ++ [x]) ∧
      ∀ pre post, l = pre ++ post → post ≠ [] → n = pre.length + 1 → placeAt l n x = pre ++ x :: post := by
  refine ⟨fun htail => if_pos htail, ?_⟩
  rintro pre post rfl hpost rfl
  have hlong : 0 < post.length := List.length_pos_iff.2 hpost
  rw [placeAt, if_neg (by rw [List.length_append]; omega), Nat.add_sub_cancel, List.take_left, List.drop_left]

theorem placedAt_placeAt (l : List Entry) (n : Nat) (x : Entry) : PlacedAt l n x (placeAt l n x) := placeAt_placed l n x

theorem addEntry_eq (position : Nat) (e : Entry) (s : State) :
    addEntry position e s =
      afterQueueChange (placeAt s.queue.entries position { e with tag := s.queue.freeTag }) (tagAfter s.queue.freeTag) s :=
  changedAndEvaluated_eq _ _ s

/-! ### QUEUE_INSERT (R155) -/

theorem positionOf_eq_some {b : Byte} (h : b.toNat ≤ 48) : positionOf b = some b.toNat := if_pos h

theorem bitOf_eq_some {b : Byte} (h : b.toNat ≤ 1) : bitOf b = some (decide (b = 1)) := by
  have hb : b = 0 ∨ b = 1 := by bv_omega
  rcases hb with rfl | rfl <;> rfl

theorem positionOf_range {b : Byte} {n : Nat} (h : positionOf b = some n) : b.toNat ≤ 48 := by
  by_contra hb
  rw [positionOf, if_neg hb] at h
  cases h

theorem bitOf_range {b : Byte} {x : Bool} (h : bitOf b = some x) : b.toNat ≤ 1 := by
  unfold bitOf at h
  split_ifs at h with h0 h1
  · rw [h0]; decide
  · rw [h1]; decide

/-- The ranges of every field of a QUEUE_INSERT. -/
def InsertLegal (a : InsertArgs) : Prop :=
  (1 ≤ a.song.toNat ∧ a.song.toNat ≤ 999999) ∧ a.position.toNat ≤ 48 ∧ (1 ≤ a.duration.toNat ∧ a.duration.toNat ≤ 1800) ∧
    a.difficulty.toNat ≤ 2 ∧ (-6 ≤ a.key.toInt ∧ a.key.toInt ≤ 6) ∧ a.duet.toNat ≤ 1 ∧ a.pin.toNat ≤ 1

theorem insertArguments_legal {a : InsertArgs} {r : InsertRequest} (h : insertArguments a = some r) : InsertLegal a := by
  unfold insertArguments at h
  split at h
  case h_2 => cases h
  case h_1 hsong hposition hduration hdifficulty hkey hduet hpin =>
    exact ⟨songOf_range hsong, positionOf_range hposition, secondsOf_range hduration, difficultyOf_range hdifficulty,
      keyOf_range hkey, bitOf_range hduet, bitOf_range hpin⟩

theorem insertArguments_eq {a : InsertArgs} (h : InsertLegal a) {d : Difficulty} (hd : difficultyOf a.difficulty = some d) :
    insertArguments a = some
      { song := a.song.toNat, position := a.position.toNat, duration := a.duration.toNat, difficulty := d, key := a.key.toInt
        duet := decide (a.duet = 1), pin := decide (a.pin = 1) } := by
  obtain ⟨⟨hs1, hs2⟩, hposition, ⟨hd1, hd2⟩, -, ⟨hk1, hk2⟩, hduet, hpin⟩ := h
  simp only [insertArguments, songOf_eq_some hs1 hs2, positionOf_eq_some hposition, secondsOf_eq_some hd1 hd2, hd,
    keyOf_eq_some hk1 hk2, bitOf_eq_some hduet, bitOf_eq_some hpin]

theorem indexOfSong_isSome {q : Queue} {song : Nat} (h : ∃ e ∈ q.entries, e.song = song) : (q.indexOfSong song).isSome = true := by
  obtain ⟨e, he, hsong⟩ := h
  rw [Queue.indexOfSong, List.findIdx?_isSome]
  exact List.any_eq_true.2 ⟨e, he, decide_eq_true hsong⟩

theorem queueInsertOp_eq {a : InsertArgs} {r : InsertRequest} (hr : insertArguments a = some r) (s : State) :
    queueInsertOp a s =
      if s.room.state = .closed then (.refusedState, s)
      else if (s.queue.indexOfSong r.song).isSome then (.refusedDuplicate, s)
      else if 48 ≤ s.queue.entries.length then (.refusedFull, s)
      else (.done, afterQueueChange (placeAt s.queue.entries r.position { r.entry with tag := s.queue.freeTag })
        (tagAfter s.queue.freeTag) s) := by
  simp only [queueInsertOp, hr, addEntry_eq]

/-- Settles O42: the refusals in order, then the place the entry takes. -/
theorem queueInsertPlacesStaffEntry : Obligations.QueueInsertPlacesStaffEntry := by
  intro slot a s hup
  have hexec : exec (.queueInsert slot a) s = .next (takeCommand slot 0x30 (queueInsertOp a) s) := handOver_of_busUp hup _
  rw [hexec]
  refine ⟨fun hbad => ?argument, fun hs1 hs2 hposition hd1 hd2 hk1 hk2 hduet hpin diff hdiff => ?legal⟩
  case argument =>
    have hnone : insertArguments a = none := by
      cases hr : insertArguments a with
      | none => rfl
      | some r =>
        have hlegal := insertArguments_legal hr
        unfold InsertLegal at hlegal
        omega
    have hop : queueInsertOp a (setFirstHalf none s) = (.refusedArgument, setFirstHalf none s) := by simp only [queueInsertOp, hnone]
    rw [takeCommand_refused slot 0x30 _ _ s hop]
  case legal =>
    have hlegal : InsertLegal a := ⟨⟨hs1, hs2⟩, hposition, ⟨hd1, hd2⟩, difficultyOf_range hdiff, ⟨hk1, hk2⟩, hduet, hpin⟩
    have hop := queueInsertOp_eq (insertArguments_eq hlegal hdiff) (setFirstHalf none s)
    refine ⟨fun hclosed => ?_, fun hopen hsame => ?_, fun hopen hnew hfull => ?_, fun hopen hnew hroom => ?_⟩
    · rw [takeCommand_refused slot 0x30 _ _ s (hop.trans (if_pos hclosed))]
    · rw [takeCommand_refused slot 0x30 _ _ s (hop.trans ((if_neg hopen).trans (if_pos (indexOfSong_isSome hsame))))]
    · have hfirst : ¬ (s.queue.indexOfSong a.song.toNat).isSome = true := by rw [indexOfSong_none hnew]; exact Bool.false_ne_true
      rw [takeCommand_refused slot 0x30 _ _ s (hop.trans ((if_neg hopen).trans ((if_neg hfirst).trans (if_pos hfull))))]
    · have hfirst : ¬ (s.queue.indexOfSong a.song.toNat).isSome = true := by rw [indexOfSong_none hnew]; exact Bool.false_ne_true
      refine ⟨_, placedAt_placeAt _ _ _, congrArg Host.Outcome.next (takeCommand_eq_afterCommand ?_)⟩
      exact hop.trans ((if_neg hopen).trans ((if_neg hfirst).trans (if_neg (Nat.not_le.2 hroom))))

/-! ### The commands on the entry of a tag (R156 to R159) -/

theorem entryOfTag_first {q : Queue} {pre post : List Entry} {e : Entry} {tag : Nat} (hlist : q.entries = pre ++ e :: post)
    (hpre : ∀ x ∈ pre, x.tag ≠ tag) (he : e.tag = tag) : q.entryOfTag tag = some (pre.length, e) := by
  have hindex : q.indexOfTag tag = some pre.length := by
    rw [Queue.indexOfTag, hlist]
    exact findIdx?_first post (fun x hx => decide_eq_false (hpre x hx)) (decide_eq_true he)
  have hget : q.entries[pre.length]? = some e := by simp [hlist]
  simp only [Queue.entryOfTag, hindex, hget, Option.map_some]

theorem entryOfTag_none {q : Queue} {tag : Nat} (h : ∀ e ∈ q.entries, e.tag ≠ tag) : q.entryOfTag tag = none := by
  have hindex : q.indexOfTag tag = none := findIdx?_none fun e he => decide_eq_false (h e he)
  simp only [Queue.entryOfTag, hindex]

theorem eraseIdx_middle {α : Type} (pre post : List α) (e : α) : (pre ++ e :: post).eraseIdx pre.length = pre ++ post := by
  rw [List.eraseIdx_append_of_length_le (Nat.le_refl _), Nat.sub_self, List.eraseIdx_cons_zero]

theorem set_middle {α : Type} (pre post : List α) (e x : α) : (pre ++ e :: post).set pre.length x = pre ++ x :: post := by
  rw [List.set_append_right _ _ (Nat.le_refl _), Nat.sub_self, List.set_cons_zero]

theorem removeEntry_eq {s : State} {pre post : List Entry} {e : Entry} (hlist : s.queue.entries = pre ++ e :: post) :
    removeEntry pre.length s = afterQueueChange (pre ++ post) s.queue.nextTag s := by
  rw [removeEntry, hlist, eraseIdx_middle]
  exact changedAndEvaluated_eq _ _ s

theorem confirmEntry_eq {s : State} {pre post : List Entry} {e x : Entry} (hlist : s.queue.entries = pre ++ e :: post) :
    standbyEvaluate (queueChanged (putEntry pre.length x s)) = afterQueueChange (pre ++ x :: post) s.queue.nextTag s := by
  rw [putEntry, hlist, set_middle]
  exact changedAndEvaluated_eq _ _ s

theorem pinEntry_eq {s : State} {pre post : List Entry} {e x : Entry} (hlist : s.queue.entries = pre ++ e :: post) :
    queueChanged (putEntry pre.length x s) =
      signalled 14 { s with queue := { s.queue with entries := pre ++ x :: post, gen := s.queue.gen + 1 } } := by
  rw [queueChanged_eq, putEntry, hlist, set_middle]

/-- A move, by whether it leaves the list and whether the evaluation then changes a state. -/
theorem moveEntry_eq {s : State} {pre post : List Entry} {e : Entry} (hlist : s.queue.entries = pre ++ e :: post) (n : Nat) :
    let es := placeAt (pre ++ post) n e
    moveEntry pre.length n e s =
      if es = s.queue.entries then
        if evaluated s es = es then s
        else signalled 14 { s with queue := { s.queue with entries := evaluated s es, gen := s.queue.gen + 1 } }
      else afterQueueChange es s.queue.nextTag s := by
  intro es
  have hes : placeAt (s.queue.entries.eraseIdx pre.length) n e = es := by rw [hlist, eraseIdx_middle]
  by_cases hsame : es = s.queue.entries
  · have hstate : { s with queue := { s.queue with entries := es } } = s := by rw [hsame]
    rw [moveEntry, if_pos hsame, hes, if_pos hsame, hstate, standbyEvaluate_eq, hsame]
  · rw [moveEntry, if_neg hsame, hes, if_neg hsame]
    exact changedAndEvaluated_eq es s.queue.nextTag s

theorem tagOf_eq_some {b : Byte} (h : b ≠ 0) : tagOf b = some b.toNat := if_neg h

theorem positionOf_eq_none {b : Byte} (h : 48 < b.toNat) : positionOf b = none := if_neg (Nat.not_le.2 h)

theorem bitOf_eq_none {b : Byte} (h : 1 < b.toNat) : bitOf b = none := by
  have h0 : ¬ b = 0 := by rintro rfl; simp at h
  have h1 : ¬ b = 1 := by rintro rfl; simp at h
  rw [bitOf, if_neg h0, if_neg h1]

theorem queueMoveOp_argument {tag position : Byte} (h : tag = 0 ∨ 48 < position.toNat) (s : State) :
    queueMoveOp tag position s = (.refusedArgument, s) := by
  unfold queueMoveOp
  split
  case h_2 => rfl
  case h_1 ht hp =>
    rcases h with rfl | h
    · cases ht
    · rw [positionOf_eq_none h] at hp; cases hp

theorem queuePinOp_argument {tag setting : Byte} (h : tag = 0 ∨ 1 < setting.toNat) (s : State) :
    queuePinOp tag setting s = (.refusedArgument, s) := by
  unfold queuePinOp
  split
  case h_2 => rfl
  case h_1 ht hp =>
    rcases h with rfl | h
    · cases ht
    · rw [bitOf_eq_none h] at hp; cases hp

section
variable {tag : Byte} (htag : tag ≠ 0) {s : State}
include htag

theorem queueRemoveOp_found {i : Nat} {e : Entry} (h : s.queue.entryOfTag tag.toNat = some (i, e)) :
    queueRemoveOp tag s = (.done, removeEntry i s) := by
  simp only [queueRemoveOp, tagOf_eq_some htag, h]

theorem queueMoveOp_found {position : Byte} (hp : position.toNat ≤ 48) {i : Nat} {e : Entry}
    (h : s.queue.entryOfTag tag.toNat = some (i, e)) :
    queueMoveOp tag position s = (.done, moveEntry i position.toNat e s) := by
  simp only [queueMoveOp, tagOf_eq_some htag, positionOf_eq_some hp, h]

theorem queueConfirmOp_found {i : Nat} {e : Entry} (h : s.queue.entryOfTag tag.toNat = some (i, e)) :
    queueConfirmOp tag s =
      if e.state = .waiting then (.done, standbyEvaluate (queueChanged (putEntry i { e with state := .queued } s)))
      else (.refusedState, s) := by
  simp only [queueConfirmOp, tagOf_eq_some htag, h]

theorem queuePinOp_found {setting : Byte} (hb : setting.toNat ≤ 1) {i : Nat} {e : Entry}
    (h : s.queue.entryOfTag tag.toNat = some (i, e)) :
    queuePinOp tag setting s = (.done, if e.pin = decide (setting = 1) then s
      else queueChanged (putEntry i { e with pin := decide (setting = 1) } s)) := by
  simp only [queuePinOp, tagOf_eq_some htag, bitOf_eq_some hb, h]

theorem queueRemoveOp_notFound (h : s.queue.entryOfTag tag.toNat = none) : queueRemoveOp tag s = (.refusedNotFound, s) := by
  simp only [queueRemoveOp, tagOf_eq_some htag, h]

theorem queueMoveOp_notFound {position : Byte} (hp : position.toNat ≤ 48) (h : s.queue.entryOfTag tag.toNat = none) :
    queueMoveOp tag position s = (.refusedNotFound, s) := by
  simp only [queueMoveOp, tagOf_eq_some htag, positionOf_eq_some hp, h]

theorem queueConfirmOp_notFound (h : s.queue.entryOfTag tag.toNat = none) : queueConfirmOp tag s = (.refusedNotFound, s) := by
  simp only [queueConfirmOp, tagOf_eq_some htag, h]

theorem queuePinOp_notFound {setting : Byte} (hb : setting.toNat ≤ 1) (h : s.queue.entryOfTag tag.toNat = none) :
    queuePinOp tag setting s = (.refusedNotFound, s) := by
  simp only [queuePinOp, tagOf_eq_some htag, bitOf_eq_some hb, h]

end

/-- A queue command handed over with the buses up. -/
theorem exec_queueRow {c : Instr} {slot : CmdSlot} {code : Byte} {op : State → CmdOutcome × State} {o : CmdOutcome} {s u : State}
    (hup : s.busUp = true) (hrow : exec c s = handOver (takeCommand slot code op) s)
    (hop : op (setFirstHalf none s) = (o, setFirstHalf none u)) : exec c s = .next (afterCommand slot code o u) := by
  rw [hrow, handOver_of_busUp hup, takeCommand_eq_afterCommand hop]

/-- Settles O43: the entry a tag names, or none. -/
theorem tagCommandsActOnTheirEntry : Obligations.TagCommandsActOnTheirEntry := by
  intro slot tag s hup htag
  refine ⟨fun pre e post hlist hpre he => ?found, fun hnone => ?notFound, exec_queueRow hup rfl rfl, exec_queueRow hup rfl rfl,
    fun any position hbad => exec_queueRow hup rfl (queueMoveOp_argument hbad _),
    fun any setting hbad => exec_queueRow hup rfl (queuePinOp_argument hbad _)⟩
  case notFound =>
    have hentry : (setFirstHalf none s).queue.entryOfTag tag.toNat = none := entryOfTag_none hnone
    exact ⟨exec_queueRow hup rfl (queueRemoveOp_notFound htag hentry), exec_queueRow hup rfl (queueConfirmOp_notFound htag hentry),
      fun position hp => exec_queueRow hup rfl (queueMoveOp_notFound htag hp hentry),
      fun setting hb => exec_queueRow hup rfl (queuePinOp_notFound htag hb hentry)⟩
  case found =>
    let v := setFirstHalf none s
    have hentry : v.queue.entryOfTag tag.toNat = some (pre.length, e) := entryOfTag_first hlist hpre he
    refine ⟨?remove, fun position hp => ⟨_, placedAt_placeAt _ _ _, fun hmoved => ?moved, fun hsame hstill => ?still,
      fun hsame hchanged => ?evaluated⟩, fun hwaiting => ?confirm, fun hother => ?state, fun setting hb => ?pin⟩
    case remove =>
      exact exec_queueRow hup rfl ((queueRemoveOp_found htag hentry).trans (congrArg (Prod.mk CmdOutcome.done) (removeEntry_eq (s := v) hlist)))
    case moved =>
      refine exec_queueRow hup rfl ((queueMoveOp_found htag hp hentry).trans (congrArg (Prod.mk CmdOutcome.done) ?_))
      exact (moveEntry_eq (s := v) hlist position.toNat).trans (if_neg hmoved)
    case still =>
      refine exec_queueRow hup rfl ((queueMoveOp_found htag hp hentry).trans (congrArg (Prod.mk CmdOutcome.done) ?_))
      exact (moveEntry_eq (s := v) hlist position.toNat).trans ((if_pos hsame).trans (if_pos hstill))
    case evaluated =>
      refine exec_queueRow hup rfl ((queueMoveOp_found htag hp hentry).trans (congrArg (Prod.mk CmdOutcome.done) ?_))
      exact (moveEntry_eq (s := v) hlist position.toNat).trans ((if_pos hsame).trans (if_neg hchanged))
    case confirm =>
      refine exec_queueRow hup rfl ((queueConfirmOp_found htag hentry).trans ((if_pos hwaiting).trans (congrArg (Prod.mk CmdOutcome.done) ?_)))
      exact confirmEntry_eq (s := v) hlist
    case state => exact exec_queueRow hup rfl ((queueConfirmOp_found htag hentry).trans (if_neg hother))
    case pin =>
      refine exec_queueRow hup rfl ((queuePinOp_found htag hb hentry).trans (congrArg (Prod.mk CmdOutcome.done) ?_))
      by_cases hpin : e.pin = decide (setting = 1)
      · rw [if_pos hpin, if_pos hpin]
      · rw [if_neg hpin, if_neg hpin]
        exact pinEntry_eq (s := v) hlist

end Sys2Proof.Machine
end

section
/-! The completion of a result posting (sections 7.5, 7.6, 9.5). -/

namespace Sys2Proof.Machine

/-! ### The encore and the retire (R165, R166) -/

/-- The entries that an encore leaves: a promotion, when the song and its lead earn one. -/
def encored (outcome : EndOutcome) (lead : Option Nat) (r : Requester) (threshold steps : Nat) (es : List Entry) : List Entry :=
  match r, lead with
  | .handset h, some final => if outcome = .complete ∧ threshold ≠ 0 ∧ threshold ≤ final then promoteFirst h steps es else es
  | _, _ => es

theorem encore_eq (outcome : EndOutcome) (lead : Option Nat) (r : Requester) (threshold steps : Nat) (s : State) :
    encore outcome lead r threshold steps s =
      if encored outcome lead r threshold steps s.queue.entries = s.queue.entries then s
      else queueChanged { s with queue := { s.queue with entries := encored outcome lead r threshold steps s.queue.entries } } := by
  cases r with
  | staff => exact (if_pos rfl).symm
  | none => exact (if_pos rfl).symm
  | handset h =>
    cases lead with
    | none => exact (if_pos rfl).symm
    | some final =>
      by_cases hearned : outcome = .complete ∧ threshold ≠ 0 ∧ threshold ≤ final
      · simp only [encore, encored, if_pos hearned]
      · simp only [encore, encored, if_neg hearned, if_true]

theorem encored_of_earned {outcome : EndOutcome} {h : Fin 16} {threshold final : Nat}
    (hearned : outcome = .complete ∧ threshold ≠ 0 ∧ threshold ≤ final) (steps : Nat) (es : List Entry) :
    encored outcome (some final) (.handset h) threshold steps es = promoteFirst h steps es := if_pos hearned

/-- Without an entry to promote, or a song that earns it, the list stays. -/
theorem encored_same {outcome : EndOutcome} {lead : Option Nat} {r : Requester} {threshold steps : Nat} {es : List Entry}
    (hsame : ∀ h final, r = .handset h → lead = some final → outcome = .complete ∧ threshold ≠ 0 ∧ threshold ≤ final →
      promoteFirst h steps es = es) : encored outcome lead r threshold steps es = es := by
  cases r with
  | staff => rfl
  | none => rfl
  | handset h =>
    cases lead with
    | none => rfl
    | some final =>
      by_cases hearned : outcome = .complete ∧ threshold ≠ 0 ∧ threshold ≤ final
      · rw [encored_of_earned hearned, hsame h final rfl rfl hearned]
      · exact if_neg hearned

theorem encore_spec {outcome : EndOutcome} {lead : Option Nat} {r : Requester} {threshold steps : Nat} {s t : State}
    (ht : encore outcome lead r threshold steps s = t) :
    let es := encored outcome lead r threshold steps s.queue.entries
    t.queue = { s.queue with entries := es, gen := s.queue.gen + (if es = s.queue.entries then 0 else 1) } ∧
      (∀ n, n ≠ 14 → t.events.getLsbD n = s.events.getLsbD n) ∧
      t = { s with queue := t.queue, events := t.events, statusGen := t.statusGen } := by
  intro es
  rw [encore_eq] at ht
  by_cases hsame : es = s.queue.entries
  · have hes : s = t := (if_pos hsame).symm.trans ht
    subst hes
    refine ⟨?_, fun _ _ => rfl, rfl⟩
    simp [hsame]
  · have hes := (if_neg hsame).symm.trans ht
    rw [queueChanged_eq] at hes
    subst hes
    refine ⟨?_, fun n hn => signalled_other hn _, rfl⟩
    simp [signalled, hsame, es]

theorem retire_spec {s t : State} (ht : retire s = t) :
    t.queue = { s.queue with
        nowPlaying := none, entries := evaluated t s.queue.entries
        gen := s.queue.gen + (if evaluated t s.queue.entries = s.queue.entries then 1 else 2) } ∧
      t.events.getLsbD 14 = true ∧ (∀ n, n ≠ 14 → t.events.getLsbD n = s.events.getLsbD n) ∧
      t = { s with queue := t.queue, events := t.events, statusGen := t.statusGen } := by
  rw [retire, changedAndEvaluated_queue] at ht
  subst ht
  exact ⟨rfl, signalled_pending (by decide) _, fun n hn => signalled_other hn _, rfl⟩

/-- A promotion past entries of others changes the list. -/
theorem promoted_ne {pre passed back : List Entry} {e : Entry} {h : Fin 16} (he : e.requester = .handset h)
    (hothers : ∀ x ∈ pre ++ passed, x.requester ≠ .handset h) (hsome : passed ≠ []) :
    pre ++ e :: passed ++ back ≠ pre ++ passed ++ e :: back := by
  obtain ⟨x, rest, rfl⟩ := List.exists_cons_of_ne_nil hsome
  intro hsame
  rw [List.append_assoc, List.append_assoc] at hsame
  have htail := List.append_cancel_left hsame
  simp only [List.cons_append, List.cons.injEq] at htail
  exact hothers x (by simp) (htail.1 ▸ he)

/-! ### The posting (R125) -/

theorem creditBoard_other {o : EndOutcome} {r : Requester} {h : Fin 16} (hnot : ¬ (o = .complete ∧ r = .handset h)) (lead : Option Nat)
    (board : Vector BoardEntry 16) : (creditBoard o lead r board)[h] = board[h] := by
  unfold creditBoard
  split
  case h_1 k =>
    split
    case isTrue ho =>
      have hk : h ≠ k := fun e => hnot ⟨ho, by rw [e]⟩
      exact setAt_other _ _ _ _ hk
    case isFalse => rfl
  all_goals rfl

theorem creditBoard_self (lead : Option Nat) (h : Fin 16) (board : Vector BoardEntry 16) :
    (creditBoard .complete lead (.handset h) board)[h] = (board[h]).credit lead := by
  rw [creditBoard, if_pos rfl, setAt_self]

theorem requester_playing {q : Queue} {n : NowPlaying} (h : q.nowPlaying = some n) : q.requester = n.requester := by
  rw [Queue.requester, h]

theorem requester_idle {q : Queue} (h : q.nowPlaying = none) : q.requester = .none := by
  rw [Queue.requester, h]

theorem credit_completed (b : BoardEntry) (lead : Option Nat) : (b.credit lead).completed = min (b.completed + 1) 255 := by
  cases lead <;> rfl

theorem leadFinal_of_lead {x : Score} {c : Fin 4} (h : x.lead = some c) :
    x.leadFinal = some (finalRuled x.channels[c]).score := by
  rw [Score.leadFinal, h]
  rfl

/-- The state before the encore and the retire: the record, the board and RESULT_POSTED. -/
def postedState (o : EndOutcome) (s : State) : State :=
  signalled 4 { s with
    score := { s.score with
      result := postedResult o s, board := creditBoard o s.score.leadFinal s.queue.requester s.score.board, posting := none
      gen := s.score.gen + 1 }
    clock := { s.clock with postingDone := true } }

/-- The entries that a posting leaves before the retire. -/
def postedEntries (o : EndOutcome) (s : State) : List Entry :=
  encored o s.score.leadFinal s.queue.requester (encoreThreshold s.anchor.bytes) (encoreSteps s.anchor.bytes) s.queue.entries

theorem completePosting_spec {o : EndOutcome} {s t : State} (ht : completePosting o s = t) :
    let es := postedEntries o s
    t.queue = { s.queue with
        nowPlaying := none, entries := evaluated t es
        gen := s.queue.gen + (if es = s.queue.entries then 0 else 1) + (if evaluated t es = es then 1 else 2) } ∧
      t.events.getLsbD 14 = true ∧ (∀ n, n ≠ 14 → t.events.getLsbD n = (postedState o s).events.getLsbD n) ∧
      t = { postedState o s with queue := t.queue, events := t.events, statusGen := t.statusGen } := by
  intro es
  have hstep : retire (encore o s.score.leadFinal s.queue.requester (encoreThreshold s.anchor.bytes) (encoreSteps s.anchor.bytes)
      (postedState o s)) = t := by
    rw [← ht, completePosting, raise_eq]
    rfl
  obtain ⟨v, hv⟩ : ∃ v, encore o s.score.leadFinal s.queue.requester (encoreThreshold s.anchor.bytes) (encoreSteps s.anchor.bytes)
    (postedState o s) = v := ⟨_, rfl⟩
  obtain ⟨hvqueue, hvevents, hvframe⟩ := encore_spec hv
  rw [hv] at hstep
  obtain ⟨hqueue, hpending, hevents, hframe⟩ := retire_spec hstep
  have hentries : v.queue.entries = es := congrArg Queue.entries hvqueue
  refine ⟨?_, hpending, fun n hn => (hevents n hn).trans (hvevents n hn), ?_⟩
  · rw [hentries] at hqueue
    rw [hqueue, hvqueue]
    rfl
  · exact hframe.trans (congrArg (fun x : State => { x with queue := t.queue, events := t.events, statusGen := t.statusGen }) hvframe)

/-- Settles O38: each block of the completed posting by its own equation. -/
theorem resultPostingCompletes : Obligations.ResultPostingCompletes := by
  intro s p hp m final leads
  obtain ⟨t, ht⟩ : ∃ t, completePosting p.outcome s = t := ⟨_, rfl⟩
  obtain ⟨hqueue, hpending, hevents, hframe⟩ := completePosting_spec ht
  have hexec : exec .resultPostingComplete s = .next t := by
    refine congrArg Host.Outcome.next ?_
    simp only [postResult, hp, ht]
  have hscore : t.score = (postedState p.outcome s).score := by rw [hframe]
  have hclock : t.clock = (postedState p.outcome s).clock := by rw [hframe]
  have hresult : t.score.result = postedResult p.outcome s := congrArg Score.result hscore
  have hboard : t.score.board = creditBoard p.outcome s.score.leadFinal s.queue.requester s.score.board := congrArg Score.board hscore
  have hposted : (postedState p.outcome s).events.getLsbD 4 = true := signalled_pending (by decide) _
  refine ⟨t, hexec, hclock, by rw [hscore]; rfl, by rw [hscore]; rfl, by rw [hscore]; rfl, ?_⟩
  rw [hresult, hboard]
  refine ⟨rfl, rfl, rfl, rfl, fun c => mapAll_get _ _ c, s.score.lead_iff, fun n hn => requester_playing hn, requester_idle,
    fun h => ⟨fun hnot => creditBoard_other hnot _ _, fun hcomplete hrequester => ?board⟩, ?four, hpending, fun n h4 h14 => ?other,
    by rw [hqueue], by rw [hqueue], ?queue, ?frame⟩
  case board =>
    have hcredit : (creditBoard p.outcome s.score.leadFinal s.queue.requester s.score.board)[h] =
        (s.score.board[h]).credit s.score.leadFinal := by
      rw [hcomplete, show s.queue.requester = .handset h from hrequester, creditBoard_self]
    rw [hcredit]
    refine ⟨credit_completed _ _, fun hnone => ?_, fun c hc => ?_⟩
    · rw [show s.score.leadFinal = none from congrArg _ hnone]
      exact ⟨rfl, rfl⟩
    · rw [leadFinal_of_lead hc]
      exact ⟨rfl, rfl⟩
  case four => rw [hevents 4 (by decide), hposted]
  case other => rw [hevents n h14, postedState, signalled_other h4]
  case queue =>
    intro promotes retired
    have hpromotes {h : Fin 16} {f : Nat} (hr : s.queue.requester = .handset h) (hf : s.score.leadFinal = some f)
        (hearned : p.outcome = .complete ∧ encoreThreshold m ≠ 0 ∧ encoreThreshold m ≤ f) : ∃ c, promotes h c := by
      obtain ⟨c, hc, rfl⟩ := Option.map_eq_some_iff.1 hf
      exact ⟨c, hearned.1, hearned.2.1, hr, hc, hearned.2.2⟩
    refine ⟨fun hnone => ?_, fun h c pre passed e back hpromoted hlist he hothers hfew hpins hstop => ?_⟩
    · have hes : postedEntries p.outcome s = s.queue.entries := encored_same fun h f hr hf hearned => by
        obtain ⟨c, hc⟩ := hpromotes hr hf hearned
        exact promoteFirst_none h _ _ (hnone h c hc)
      rw [hes, if_pos rfl] at hqueue
      refine ⟨congrArg Queue.entries hqueue, (congrArg Queue.gen hqueue).trans ?_⟩
      split <;> bv_omega
    · obtain ⟨hcomplete, hthreshold, hrequester, hlead, hearned⟩ := hpromoted
      have hes : postedEntries p.outcome s = pre ++ e :: passed ++ back := by
        rw [postedEntries, leadFinal_of_lead hlead, show s.queue.requester = .handset h from hrequester,
          encored_of_earned ⟨hcomplete, hthreshold, hearned⟩, hlist, promoteFirst_eq h _ pre passed e back he hothers hfew hpins hstop]
      have hmoves : (if postedEntries p.outcome s = s.queue.entries then (0 : Count32) else 1) = if passed = [] then 0 else 1 := by
        refine if_congr ?_ rfl rfl
        rw [hes, hlist]
        constructor
        · intro hsame
          by_contra hsome
          exact promoted_ne he hothers hsome hsame
        · rintro rfl
          simp
      rw [hmoves, hes] at hqueue
      refine ⟨congrArg Queue.entries hqueue, (congrArg Queue.gen hqueue).trans ?_⟩
      split <;> split <;> bv_omega
  case frame =>
    rw [hclock, hscore]
    exact hframe

end Sys2Proof.Machine
end

section
/-! What the latches draw, and what is drawn does to a pixel (section 5.3). -/

namespace Sys2Proof.Machine

/-! ### Pixels (R84, R89) -/

theorem extract_byte0 (a r g b : Byte) : (a ++ r ++ g ++ b).extractLsb' 0 8 = b := by
  ext i hi
  simp only [BitVec.getElem_extractLsb', BitVec.getLsbD_append]
  rw [if_pos (by omega), Nat.zero_add, BitVec.getLsbD_eq_getElem hi]

theorem extract_byte1 (a r g b : Byte) : (a ++ r ++ g ++ b).extractLsb' 8 8 = g := by
  ext i hi
  simp only [BitVec.getElem_extractLsb', BitVec.getLsbD_append]
  rw [if_neg (by omega), if_pos (by omega), Nat.add_sub_cancel_left, BitVec.getLsbD_eq_getElem hi]

theorem extract_byte2 (a r g b : Byte) : (a ++ r ++ g ++ b).extractLsb' 16 8 = r := by
  ext i hi
  simp only [BitVec.getElem_extractLsb', BitVec.getLsbD_append]
  rw [if_neg (by omega), if_neg (by omega), if_pos (by omega), BitVec.getLsbD_eq_getElem (by omega)]
  congr 1
  omega

theorem extract_byte3 (a r g b : Byte) : (a ++ r ++ g ++ b).extractLsb' 24 8 = a := by
  ext i hi
  simp only [BitVec.getElem_extractLsb', BitVec.getLsbD_append]
  rw [if_neg (by omega), if_neg (by omega), if_neg (by omega), BitVec.getLsbD_eq_getElem (by omega)]
  congr 1
  omega

theorem blendByte_toNat (bg fg : Byte) {c : Nat} (hc : c ≤ 3) :
    (blendByte bg fg c).toNat = (bg.toNat * (3 - c) + fg.toNat * c + 1) / 3 := by
  have hbg := bg.isLt
  have hfg := fg.isLt
  have hsmall : (bg.toNat * (3 - c) + fg.toNat * c + 1) / 3 < 2 ^ 8 := by
    interval_cases c <;> omega
  rw [blendByte, BitVec.toNat_ofNat, Nat.mod_eq_of_lt hsmall]

/-! ### The lyric latch's drawing (R83) -/

theorem inLyricRows_eq_false (bandTop height r : Nat) :
    inLyricRows bandTop height r = false ↔ r < bandTop ∨ bandTop + 2 * height ≤ r := by
  rw [inLyricRows, Bool.and_eq_false_iff, decide_eq_false_iff_not, decide_eq_false_iff_not, Nat.not_le, Nat.not_lt]

theorem inLyricRows_eq_true (bandTop height r : Nat) :
    inLyricRows bandTop height r = true ↔ bandTop ≤ r ∧ r < bandTop + 2 * height := by
  rw [inLyricRows, Bool.and_eq_true, decide_eq_true_iff, decide_eq_true_iff]

theorem coverage_ruled (b : StripBuf) (n : Nat) : b.coverage n = (b.bytes.read (64 + n / 4)).toNat / 2 ^ (2 * (n % 4)) % 4 := by
  rw [StripBuf.coverage, Nat.pow_mul]

theorem SungColours.of_ruled (c : SungColours) (p : Part) :
    (p = .a → c.of p = c.a) ∧ (p = .b → c.of p = c.b) ∧ (p = .both → c.of p = c.both) := by
  cases p <;> simp [SungColours.of]

/-- The pixels that the lyric latch leaves alone. -/
def LyricPassed (l : LyricLatch) (r x : Nat) : Prop :=
  let v := r - l.bandTop + l.offset
  l.width ≤ x ∨ r < l.bandTop ∨ l.bandTop + 2 * l.height ≤ r ∨ 3 * l.height ≤ v ∨ l.lines.length ≤ v / l.height ∨
    (v / l.height = 2 ∧ l.blankBelow = true)

theorem lyricPaint_passed {l : LyricLatch} {r x : Nat} (h : LyricPassed l r x) (strips : Vector StripBuf 4) :
    lyricPaint l strips r x = .pass := by
  unfold lyricPaint
  split
  case isTrue => rfl
  case isFalse hin =>
    obtain ⟨hwidth, hrows⟩ := not_or.1 hin
    dsimp only
    split
    case isTrue => rfl
    case isFalse hshown =>
      obtain ⟨hlow, hblank⟩ := not_or.1 hshown
      have hlong : l.lines.length ≤ (r - l.bandTop + l.offset) / l.height := by
        rw [inLyricRows_eq_false] at hrows
        unfold LyricPassed at h
        tauto
      rw [List.getElem?_eq_none hlong]

theorem lyricPaint_drawn {l : LyricLatch} {r x : Nat} (h : ¬ LyricPassed l r x) (strips : Vector StripBuf 4) {y : ShownLine}
    (hy : l.lines[(r - l.bandTop + l.offset) / l.height]? = some y) :
    lyricPaint l strips r x = .blend (if x < y.wipe then l.sung.of y.part else l.unsung)
      ((strips[y.buffer]).coverage ((r - l.bandTop + l.offset) % l.height * l.width + x)) := by
  unfold LyricPassed at h
  have hin : ¬ (l.width ≤ x ∨ inLyricRows l.bandTop l.height r = false) := by
    rw [inLyricRows_eq_false]
    tauto
  have hshown : ¬ (3 * l.height ≤ r - l.bandTop + l.offset ∨
      (r - l.bandTop + l.offset) / l.height = 2 ∧ l.blankBelow = true) := by tauto
  rw [lyricPaint, if_neg hin]
  dsimp only
  rw [if_neg hshown, hy]

/-! ### The guide latch's drawing (R86, R87, R89, R91) -/

/-- The column of a song time, as the rule writes it. -/
def columnRuled (g : GuideLatch) (time : Nat) : Int :=
  max 0 (min (g.width : Int) ((g.nowColumn : Int) + ((time : Int) - (g.time : Int)) * (g.width : Int) / (g.span : Int)))

/-- The rows of a lane. -/
def LaneRow (g : GuideLatch) (lane : Int) (y : Nat) : Prop :=
  (g.guideHeight : Int) - (lane + 1) * (g.laneHeight : Int) ≤ (y : Int) ∧ (y : Int) < (g.guideHeight : Int) - lane * (g.laneHeight : Int)

theorem column_ruled (g : GuideLatch) (time : Nat) : (g.column time : Int) = columnRuled g time :=
  Int.toNat_of_nonneg (Int.le_max_left _ _)

theorem inLane_iff (g : GuideLatch) (lane y : Nat) : g.inLane lane y = true ↔ LaneRow g lane y := by
  rw [GuideLatch.inLane, Bool.and_eq_true, decide_eq_true_iff, decide_eq_true_iff]
  exact Iff.rfl

theorem laneOf_ruled (pitch : Int) (floorNote lanes : Nat) :
    (laneOf pitch floorNote lanes : Int) = max 0 (min ((lanes : Int) - 1) (pitch - (floorNote : Int))) :=
  Int.toNat_of_nonneg (Int.le_max_left _ _)

theorem markerCovers_iff (g : GuideLatch) (x y : Nat) (k : Marker) :
    g.markerCovers x y k = true ↔ (g.nowColumn : Int) - 2 ≤ (x : Int) ∧ x < g.nowColumn + 2 ∧ LaneRow g k.lane y := by
  rw [GuideLatch.markerCovers, Bool.and_eq_true, Bool.and_eq_true, decide_eq_true_iff, decide_eq_true_iff, inLane_iff, and_assoc]
  exact and_congr_left' (by omega)

theorem barCovers_iff (g : GuideLatch) (x y : Nat) (n : VisibleNote) :
    g.barCovers x y n = true ↔ columnRuled g n.start ≤ (x : Int) ∧ (x : Int) < columnRuled g n.stop ∧
      LaneRow g (max 0 (min ((g.lanes : Int) - 1) ((n.note : Int) + g.key - (g.floorNote : Int)))) y := by
  rw [GuideLatch.barCovers, Bool.and_eq_true, Bool.and_eq_true, decide_eq_true_iff, decide_eq_true_iff, inLane_iff, and_assoc,
    ← column_ruled, ← column_ruled, ← laneOf_ruled, Int.ofNat_le, Int.ofNat_lt]

theorem find?_first {α : Type} {p : α → Bool} {before : List α} {x : α} (after : List α) (hbefore : ∀ y ∈ before, p y = false)
    (hx : p x = true) : (before ++ x :: after).find? p = some x := by
  have hnone : before.find? p = none := List.find?_eq_none.2 fun y hy => by simp [hbefore y hy]
  rw [List.find?_append, hnone, List.find?_cons_of_pos hx]
  rfl

section
variable {g : GuideLatch} {r x : Nat}
  (hin : ¬ (g.width ≤ x ∨ r < g.guideTop ∨ g.guideTop + g.guideHeight ≤ r ∨ inLyricRows g.bandTop g.height r = true))
include hin

theorem guidePaint_marker {k : Marker} (hfind : g.markers.find? (g.markerCovers x (r - g.guideTop)) = some k) :
    guidePaint g r x = .solid g.markerColours[k.channel] := by
  simp only [guidePaint, if_neg hin, hfind]

theorem guidePaint_bar (hnone : g.markers.find? (g.markerCovers x (r - g.guideTop)) = none) {n : VisibleNote}
    (hfind : g.notes.find? (g.barCovers x (r - g.guideTop)) = some n) : guidePaint g r x = .solid (g.sung.of n.part) := by
  simp only [guidePaint, if_neg hin, hnone, hfind]

theorem guidePaint_bare (hmarkers : g.markers.find? (g.markerCovers x (r - g.guideTop)) = none)
    (hnotes : g.notes.find? (g.barCovers x (r - g.guideTop)) = none) : guidePaint g r x = .pass := by
  simp only [guidePaint, if_neg hin, hmarkers, hnotes]

end

/-- Settles O34: a latch by its branches in the order of precedence, a pixel byte by byte. -/
theorem lyricBlendRoundsToNearest : Obligations.LyricBlendRoundsToNearest := by
  refine ⟨fun fg c px hc => ?blend, fun fg px => ?solid, fun l strips r x => ?lyric, fun g r x => ?guide⟩
  case blend =>
    intro out byte
    refine ⟨?_, ?_, ?_, extract_byte3 _ _ _ _⟩
    · exact (congrArg BitVec.toNat (extract_byte0 _ _ _ _)).trans (blendByte_toNat _ _ hc)
    · exact (congrArg BitVec.toNat (extract_byte1 _ _ _ _)).trans (blendByte_toNat _ _ hc)
    · exact (congrArg BitVec.toNat (extract_byte2 _ _ _ _)).trans (blendByte_toNat _ _ hc)
  case solid => exact ⟨rfl, extract_byte0 _ _ _ _, extract_byte1 _ _ _ _, extract_byte2 _ _ _ _, extract_byte3 _ _ _ _⟩
  case lyric =>
    intro v i n passed
    refine ⟨fun h => lyricPaint_passed h strips, fun h y hy => ⟨if x < y.wipe then l.sung.of y.part else l.unsung, ?_, fun hunsung => if_neg (Nat.not_lt.2 hunsung), fun hsung => ?_⟩⟩
    · rw [lyricPaint_drawn h strips hy, coverage_ruled]
    · rw [if_pos hsung]
      exact SungColours.of_ruled _ _
  case guide =>
    intro y column laneRow marker bar passed
    have hmarker (k : Marker) : g.markerCovers x y k = true ↔ marker k := markerCovers_iff g x y k
    have hbar (n : VisibleNote) : g.barCovers x y n = true ↔ bar n := barCovers_iff g x y n
    have hpassed : passed ↔ (g.width ≤ x ∨ r < g.guideTop ∨ g.guideTop + g.guideHeight ≤ r ∨
        inLyricRows g.bandTop g.height r = true) := by rw [inLyricRows_eq_true]
    refine ⟨fun h => if_pos (hpassed.1 h), fun h pre k post hlist hpre hk => ?_, fun h hnone => ?_⟩
    · have hfind : g.markers.find? (g.markerCovers x y) = some k := by
        rw [hlist]
        exact find?_first post (fun j hj => Bool.eq_false_iff.2 (mt (hmarker j).1 (hpre j hj))) ((hmarker k).2 hk)
      exact guidePaint_marker (mt hpassed.2 h) hfind
    · have hmarkers : g.markers.find? (g.markerCovers x y) = none :=
        List.find?_eq_none.2 fun k hk hcovers => hnone k hk ((hmarker k).1 hcovers)
      refine ⟨fun pre n post hlist hpre hn => ⟨g.sung.of n.part, ?_, SungColours.of_ruled _ _⟩, fun hno => ?_⟩
      · have hfind : g.notes.find? (g.barCovers x y) = some n := by
          rw [hlist]
          exact find?_first post (fun j hj => Bool.eq_false_iff.2 (mt (hbar j).1 (hpre j hj))) ((hbar n).2 hn)
        exact guidePaint_bar (mt hpassed.2 h) hmarkers hfind
      · exact guidePaint_bare (mt hpassed.2 h) hmarkers
          (List.find?_eq_none.2 fun n hn hcovers => hno n hn ((hbar n).1 hcovers))

end Sys2Proof.Machine
end

section
/-! SCANOUT beats: bands, latches and treatments (sections 5.1 to 5.4). -/

namespace Sys2Proof.Machine

/-! ### The beats of an accepted request in a SCANOUT window (R74) -/

/-- The state after the beats of an accepted read from one beat on, when their windows all carry the SCANOUT role. -/
def scannedFrom (r : BusRequest) (win : Nat → Win) (k n : Nat) (s : State) : State :=
  (List.range' k n).foldl (fun u i => scanoutState ((win i).offset (beatAddr r i)) u) s

theorem scannedFrom_succ (r : BusRequest) (win : Nat → Win) (k n : Nat) (s : State) :
    scannedFrom r win k (n + 1) s = scannedFrom r win (k + 1) n (scanoutState ((win k).offset (beatAddr r k)) s) := by
  rw [scannedFrom, List.range'_succ, List.foldl_cons, scannedFrom]

theorem scannedFrom_one (r : BusRequest) (win : Nat → Win) (k : Nat) (s : State) :
    scannedFrom r win k 1 s = scanoutState ((win k).offset (beatAddr r k)) s := rfl

theorem acceptBeats_scanout (s0 : State) {r : BusRequest} (hread : r.dir = .read) (win : Nat → Win) (n : Nat) :
    ∀ (k : Nat) (s : State),
      (∀ i, i < n → ∃ unit, matchBeat s0.anchorSel s0.anchor .read r.tag (beatAddr r (k + i)) = .window (win (k + i)) .scanout unit) →
      (acceptBeats s0 r k n s).2 = scannedFrom r win k n s ∧
        ∀ i, i < n → (acceptBeats s0 r k n s).1[i]? = some
          { addr := beatAddr r (k + i)
            treatment := scanoutTreatment ((win (k + i)).offset (beatAddr r (k + i))) (scannedFrom r win k (i + 1) s) } := by
  induction n with
  | zero => exact fun _ _ _ => ⟨rfl, nofun⟩
  | succ n ih =>
    intro k s hall
    obtain ⟨unit, hmatch⟩ := hall 0 (Nat.succ_pos n)
    rw [Nat.add_zero] at hmatch
    have hbeat : acceptBeat s0 r (beatAddr r k) s =
        (scanoutTreatment ((win k).offset (beatAddr r k)) (scanoutState ((win k).offset (beatAddr r k)) s),
          scanoutState ((win k).offset (beatAddr r k)) s) := by
      simp only [acceptBeat, hread, hmatch, readBeat]
    obtain ⟨hstate, hbeats⟩ := ih (k + 1) (scanoutState ((win k).offset (beatAddr r k)) s) fun i hi => by
      rw [Nat.add_assoc, Nat.add_comm 1 i]
      exact hall (i + 1) (Nat.succ_lt_succ hi)
    rw [acceptBeats, hbeat]
    refine ⟨hstate.trans (scannedFrom_succ r win k n s).symm, fun i hi => ?_⟩
    cases i with
    | zero =>
      simp only [Nat.add_zero, Nat.zero_add, scannedFrom_one, List.getElem?_cons_zero]
    | succ i =>
      have hplace : k + (i + 1) = k + 1 + i := by omega
      refine (hbeats i (Nat.lt_of_succ_lt_succ hi)).trans ?_
      rw [scannedFrom_succ r win k, hplace]

/-! ### Bands and latches (R75, R76) -/

theorem lyricBeat_iff (m : Mem) (f : Nat) :
    lyricBeat m f = true ↔ bandTop m ≤ f / strideG m ∧ f / strideG m < bandTop m + 2 * lineHeight m :=
  inLyricRows_eq_true _ _ _

theorem guideBeat_iff (m : Mem) (f : Nat) :
    guideBeat m f = true ↔ guideTop m ≤ f / strideG m ∧ f / strideG m < guideTop m + guideHeight m ∧ ¬ lyricBeat m f = true := by
  simp only [guideBeat, Bool.and_eq_true, decide_eq_true_eq, Bool.not_eq_true', Bool.not_eq_true, and_assoc]

/-- A lyric latch is taken on entry to the band, with a song loaded. -/
def LyricEntry (f : Nat) (s : State) : Prop :=
  lyricBeat s.anchor.bytes f = true ∧ s.compositor.inLyric = false ∧ s.clock.state ≠ .idle

def GuideEntry (f : Nat) (s : State) : Prop :=
  guideBeat s.anchor.bytes f = true ∧ s.compositor.inGuide = false ∧ s.clock.state ≠ .idle

theorem enterLyric_of_entry {f : Nat} {s : State} (h : LyricEntry f s) :
    enterLyric (lyricBeat s.anchor.bytes f) s = takeLyricLatch s := by
  obtain ⟨hband, hflag, hloaded⟩ := h
  rw [enterLyric, if_pos (by simp [hband, hflag, hloaded])]

theorem enterLyric_of_not {f : Nat} {s : State} (h : ¬ LyricEntry f s) : enterLyric (lyricBeat s.anchor.bytes f) s = s := by
  rw [enterLyric, if_neg]
  simpa [LyricEntry, and_assoc] using h

theorem enterGuide_of_entry {f : Nat} {s : State} (h : GuideEntry f s) :
    enterGuide (guideBeat s.anchor.bytes f) s = takeGuideLatch s := by
  obtain ⟨hband, hflag, hloaded⟩ := h
  rw [enterGuide, if_pos (by simp [hband, hflag, hloaded])]

theorem enterGuide_of_not {f : Nat} {s : State} (h : ¬ GuideEntry f s) : enterGuide (guideBeat s.anchor.bytes f) s = s := by
  rw [enterGuide, if_neg]
  simpa [GuideEntry, and_assoc] using h

/-- A beat that takes no lyric latch. -/
theorem scanoutState_still {f : Nat} {s : State} (h : ¬ LyricEntry f s) (latch : Option GuideLatch)
    (hentry : GuideEntry f s → latch = some (makeGuideLatch s)) (hnot : ¬ GuideEntry f s → latch = s.compositor.guideLatch) :
    scanoutState f s = { s with compositor := { s.compositor with
      inLyric := lyricBeat s.anchor.bytes f, inGuide := guideBeat s.anchor.bytes f, guideLatch := latch } } := by
  rw [scanoutState, enterLyric_of_not h]
  by_cases hguide : GuideEntry f s
  · rw [enterGuide_of_entry hguide, hentry hguide]
    rfl
  · rw [enterGuide_of_not hguide, hnot hguide]

/-- A beat that takes a lyric latch. -/
theorem scanoutState_entry {f : Nat} {s : State} (h : LyricEntry f s) :
    scanoutState f s = { takeLyricLatch s with
      compositor := { (takeLyricLatch s).compositor with inLyric := true, inGuide := false } } := by
  have hlyric : lyricBeat s.anchor.bytes f = true := h.1
  have hguide : guideBeat s.anchor.bytes f = false := by
    rw [Bool.eq_false_iff]
    exact fun hg => ((guideBeat_iff _ f).1 hg).2.2 hlyric
  rw [scanoutState, enterLyric_of_entry h, hguide, hlyric]
  rfl

/-- What a lyric latch does: the four steps, LINE_LATE with the second, and the record (R64, R79). -/
theorem takeLyricLatch_spec {s t : State} (hloaded : s.clock.state ≠ .idle) (ht : takeLyricLatch s = t) :
    (∃ l, t.compositor = { s.compositor with lyricLatch := some l } ∧ LyricLatched s t.lyrics l) ∧
      ∃ late, Sequenced (latchTimeRuled s.clock) (lineLead s.anchor.bytes) (scrollDuration s.anchor.bytes) s.lyrics t.lyrics late ∧
        (late → t = signalled 7 { s with lyrics := t.lyrics, compositor := t.compositor }) ∧
        (¬ late → t = { s with lyrics := t.lyrics, compositor := t.compositor }) := by
  have hsteps := s.lyrics.sequence_steps s.clock.latchTime (lineLead s.anchor.bytes) (scrollDuration s.anchor.bytes)
  rw [s.clock.latchTime_eq hloaded] at hsteps
  rw [takeLyricLatch, s.clock.latchTime_eq hloaded, sequenceChain, raiseIf_eq] at ht
  by_cases hlate : ((s.lyrics.fill (latchTimeRuled s.clock)).warns (latchTimeRuled s.clock) (lineLead s.anchor.bytes)) = true
  · rw [if_pos hlate] at ht
    subst ht
    exact ⟨⟨_, rfl, s.clock.latchTime_eq hloaded ▸ makeLyricLatch_ruled s _ hloaded⟩, _, hsteps, fun _ => rfl,
      fun hnot => absurd hlate hnot⟩
  · rw [if_neg hlate] at ht
    subst ht
    exact ⟨⟨_, rfl, s.clock.latchTime_eq hloaded ▸ makeLyricLatch_ruled s _ hloaded⟩, _, hsteps, fun hyes => absurd hyes hlate,
      fun _ => rfl⟩

/-! ### Treatments (R77) -/

theorem scanoutTreatment_outside {f : Nat} {t : State} (hlyric : ¬ lyricBeat t.anchor.bytes f = true)
    (hguide : ¬ guideBeat t.anchor.bytes f = true) : scanoutTreatment f t = .pass := by
  rw [scanoutTreatment, if_neg hlyric, if_neg hguide]

theorem scanoutTreatment_lyric {f : Nat} {t : State} (hlyric : lyricBeat t.anchor.bytes f = true) :
    (t.compositor.lyricLatch = none → scanoutTreatment f t = .pass) ∧
      ∀ l, t.compositor.lyricLatch = some l → scanoutTreatment f t =
        .transform (lyricPaint l t.lyrics.strips (f / l.stride) (f % l.stride / 4))
          (lyricPaint l t.lyrics.strips (f / l.stride) (f % l.stride / 4 + 1)) := by
  rw [scanoutTreatment, if_pos hlyric]
  exact ⟨fun hnone => by rw [hnone], fun l hl => by rw [hl]⟩

theorem scanoutTreatment_guide {f : Nat} {t : State} (hlyric : ¬ lyricBeat t.anchor.bytes f = true)
    (hguide : guideBeat t.anchor.bytes f = true) :
    (t.compositor.guideLatch = none → scanoutTreatment f t = .pass) ∧
      ∀ g, t.compositor.guideLatch = some g → scanoutTreatment f t =
        .transform (guidePaint g (f / g.stride) (f % g.stride / 4)) (guidePaint g (f / g.stride) (f % g.stride / 4 + 1)) := by
  rw [scanoutTreatment, if_neg hlyric, if_pos hguide]
  exact ⟨fun hnone => by rw [hnone], fun g hg => by rw [hg]⟩

/-- A beat in the lyric band that latches (R64 to R68, R76, R79). -/
theorem scanoutState_latches {f : Nat} {s t : State} (h : LyricEntry f s) (ht : scanoutState f s = t) :
    (∃ l, t.compositor = { s.compositor with inLyric := true, inGuide := false, lyricLatch := some l } ∧ LyricLatched s t.lyrics l) ∧
      ∃ late, Sequenced (latchTimeRuled s.clock) (lineLead s.anchor.bytes) (scrollDuration s.anchor.bytes) s.lyrics t.lyrics late ∧
        (late → t = signalled 7 { s with lyrics := t.lyrics, compositor := t.compositor }) ∧
        (¬ late → t = { s with lyrics := t.lyrics, compositor := t.compositor }) := by
  obtain ⟨u, hu⟩ : ∃ u, takeLyricLatch s = u := ⟨_, rfl⟩
  obtain ⟨⟨l, hcompositor, hlatched⟩, late, hsteps, hlate, htimely⟩ := takeLyricLatch_spec h.2.2 hu
  rw [scanoutState_entry h, hu] at ht
  subst ht
  refine ⟨⟨l, by rw [hcompositor], hlatched⟩, late, hsteps, fun hl => ?_, fun hl => ?_⟩
  · exact congrArg (fun x : State => { x with compositor := { u.compositor with inLyric := true, inGuide := false } }) (hlate hl)
  · exact congrArg (fun x : State => { x with compositor := { u.compositor with inLyric := true, inGuide := false } }) (htimely hl)

/-- Settles O33: one beat by its bands, then the beats of a request one after the other. -/
theorem scanoutBeatsLatchOnEntry : Obligations.ScanoutBeatsLatchOnEntry := by
  refine ⟨fun r win s h hread => ?beats, fun f s => ?beat⟩
  case beats =>
    intro addr offset after hall
    obtain ⟨hstate, hbeats⟩ := acceptBeats_scanout s hread win r.beats 0 s fun i hi => by rw [Nat.zero_add]; exact hall i hi
    have hscanned (n : Nat) : scannedFrom r win 0 n s = after n := by
      rw [scannedFrom, ← List.range_eq_range']
      rfl
    refine ⟨(accept r s).bus, newListed s.bus.nextSerial r (acceptBeats s r 0 r.beats s).1, ?_, ?_, rfl, fun k hk => ?_⟩
    · refine h.exec_eq.trans (congrArg Host.Outcome.next ?_)
      exact congrArg (fun x : State => { x with bus := (accept r s).bus }) (hstate.trans (hscanned _))
    · rw [accept_bus]
    · have hbeat := hbeats k hk
      rw [hscanned, Nat.zero_add] at hbeat
      exact hbeat
  case beat =>
    intro m t row inL inG
    have hinL : lyricBeat m f = true ↔ inL := lyricBeat_iff m f
    have hinG : guideBeat m f = true ↔ inG := by rw [guideBeat_iff, hinL]
    have hkept : t.anchor = s.anchor := by simp [t]
    have hinLt : lyricBeat t.anchor.bytes f = true ↔ inL := by rw [hkept]; exact hinL
    have hinGt : guideBeat t.anchor.bytes f = true ↔ inG := by rw [hkept]; exact hinG
    have houtside (hL : ¬ inL) (hG : ¬ inG) : scanoutTreatment f t = .pass :=
      scanoutTreatment_outside (mt hinLt.1 hL) (mt hinGt.1 hG)
    have hlyric (hL : inL) := scanoutTreatment_lyric (hinLt.2 hL)
    have hguide (hG : inG) := scanoutTreatment_guide (mt hinLt.1 hG.2.2) (hinGt.2 hG)
    have ht : scanoutState f s = t := rfl
    clear_value t
    by_cases hentry : LyricEntry f s
    · have hL : inL := hinL.1 hentry.1
      have hnoG : ¬ inG := fun hG => hG.2.2 hL
      obtain ⟨⟨l, hcompositor, hlatched⟩, late, hsteps, hlate, htimely⟩ := scanoutState_latches hentry ht
      refine ⟨?_, ?_, fun hstill => ?_, fun _ => by rw [hcompositor], fun _ _ _ => ⟨⟨l, by rw [hcompositor], hlatched⟩, late, hsteps, hlate, htimely⟩,
        fun hG => absurd hG hnoG, houtside, fun h => (hlyric h).1, fun h => (hguide h).1, fun x h => (hlyric h).2 x,
        fun x h => (hguide h).2 x, ?_⟩
      · rw [hcompositor]; exact iff_of_true rfl hL
      · rw [hcompositor]; exact iff_of_false Bool.false_ne_true hnoG
      · rcases hstill with h | h | h
        · exact absurd hL h
        · exact absurd (h.symm.trans hentry.2.1) (by decide)
        · exact absurd h hentry.2.2
      · rw [hcompositor]
        rw [hcompositor] at hlate htimely
        by_cases hl : late
        · rw [hlate hl]
          rfl
        · rw [htimely hl]
    · have hidle : ¬ (inL ∧ s.compositor.inLyric = false ∧ s.clock.state ≠ .idle) := by rwa [← hinL]
      by_cases hguideEntry : GuideEntry f s
      · have hstate := scanoutState_still hentry (some (makeGuideLatch s)) (fun _ => rfl) (fun h => absurd hguideEntry h)
        have hG : inG := hinG.1 hguideEntry.1
        rw [ht] at hstate
        subst hstate
        refine ⟨hinL, hinG, fun _ => ⟨rfl, rfl, rfl, rfl⟩, fun hstill => ?_, fun h1 h2 h3 => absurd ⟨h1, h2, h3⟩ hidle,
          fun _ _ h => ⟨_, rfl, makeGuideLatch_ruled s h⟩, houtside, fun h => (hlyric h).1, fun h => (hguide h).1, fun x h => (hlyric h).2 x,
          fun x h => (hguide h).2 x, rfl⟩
        rcases hstill with h | h | h
        · exact absurd hG h
        · exact absurd (h.symm.trans hguideEntry.2.1) (by decide)
        · exact absurd h hguideEntry.2.2
      · have hstate := scanoutState_still hentry s.compositor.guideLatch (fun h => absurd h hguideEntry) (fun _ => rfl)
        have hstill : ¬ (inG ∧ s.compositor.inGuide = false ∧ s.clock.state ≠ .idle) := by rwa [← hinG]
        rw [ht] at hstate
        subst hstate
        exact ⟨hinL, hinG, fun _ => ⟨rfl, rfl, rfl, rfl⟩, fun _ => rfl, fun h1 h2 h3 => absurd ⟨h1, h2, h3⟩ hidle,
          fun h1 h2 h3 => absurd ⟨h1, h2, h3⟩ hstill, houtside, fun h => (hlyric h).1, fun h => (hguide h).1, fun x h => (hlyric h).2 x,
          fun x h => (hguide h).2 x, rfl⟩

end Sys2Proof.Machine
end

section
/-! The estimate of a frame (section 6.3) and what its posting does to its channel (sections 7.2 to 7.4). -/

namespace Sys2Proof.Machine

/-! ### Estimates (R101 to R107) -/

theorem energyOf_ruled (x : List (BitVec 16)) : energyOf (signedSamples x) = (x.map (fun y => y.toInt.natAbs)).sum / 512 := by
  rw [energyOf, magnitudeSum, signedSamples, List.map_map]
  rfl

theorem magnitude_le (y : BitVec 16) : y.toInt.natAbs ≤ 32768 := by
  have hlow := BitVec.le_toInt y
  have hhigh := BitVec.toInt_lt (x := y)
  norm_num at hlow hhigh
  omega

theorem energy_le (x : List (BitVec 16)) (h : x.length = 512) : (x.map (fun y => y.toInt.natAbs)).sum / 512 ≤ 32768 := by
  have hsum : (x.map (fun y => y.toInt.natAbs)).sum ≤ (x.map (fun y => y.toInt.natAbs)).length • 32768 :=
    List.sum_le_card_nsmul _ _ fun n hn => by
      obtain ⟨y, -, rfl⟩ := List.mem_map.1 hn
      exact magnitude_le y
  rw [List.length_map, h] at hsum
  exact Nat.div_le_of_le_mul hsum

/-- An estimate of a frame, by its cause, its lag and its pitch. -/
def Flight.judged (f : Flight) (cause : Cause) (lag pitch : Nat) : Estimate :=
  { voiced := decide (cause = .none), cause := cause, energy := energyOf (signedSamples f.samples), lag := lag, pitch := pitch
    position := f.position, state := f.state, epoch := f.epoch, folding := f.folding }

section
variable {f : Flight}

theorem estimate_quiet (hquiet : energyOf (signedSamples f.samples) < f.voicing) : f.estimate = f.judged .quiet 0 0 := by
  simp only [Flight.estimate, if_pos hquiet, Flight.judged]
  rfl

variable (hloud : ¬ energyOf (signedSamples f.samples) < f.voicing)
include hloud

theorem estimate_noLag (hnone : pickLag (differenceTable (signedSamples f.samples)) = none) : f.estimate = f.judged .noLag 0 0 := by
  simp only [Flight.estimate, if_neg hloud, hnone, Flight.judged]
  rfl

theorem estimate_noisy {lag : Nat} (hlag : pickLag (differenceTable (signedSamples f.samples)) = some lag)
    (hnoisy : noiseBound (signedSamples f.samples) lag < 2 * tableAt (differenceTable (signedSamples f.samples)) lag) :
    f.estimate = f.judged .noisy 0 0 := by
  simp only [Flight.estimate, if_neg hloud, hlag, if_pos hnoisy, Flight.judged]
  rfl

theorem estimate_voiced {lag : Nat} (hlag : pickLag (differenceTable (signedSamples f.samples)) = some lag)
    (hclear : ¬ noiseBound (signedSamples f.samples) lag < 2 * tableAt (differenceTable (signedSamples f.samples)) lag) :
    f.estimate = f.judged .none (refinedLag (differenceTable (signedSamples f.samples)) lag)
      (pitchIndex (refinedLag (differenceTable (signedSamples f.samples)) lag)) := by
  simp only [Flight.estimate, if_neg hloud, hlag, if_neg hclear, Flight.judged]
  rfl

end

/-- Settles O35: one equation of the estimate for each cause, in the terms of the ruled lag search. -/
theorem estimateFollowsFrame : Obligations.EstimateFollowsFrame := by
  intro f hlength x energy estimate
  have henergy : energyOf (signedSamples f.samples) = energy := energyOf_ruled f.samples
  have hjudged (cause : Cause) (lag pitch : Nat) : f.judged cause lag pitch = estimate cause lag pitch := by
    rw [Flight.judged, henergy]
  have hpicked {lag : Nat} (h : PickedLag x lag) : pickLag (differenceTable (signedSamples f.samples)) = some lag :=
    (pickLag_some x lag hlength).2 h
  have hloud (h : f.voicing ≤ energy) : ¬ energyOf (signedSamples f.samples) < f.voicing := by
    rw [henergy]
    exact Nat.not_lt.2 h
  have hbound {lag : Nat} (h : PickedLag x lag) : 16 ≤ lag ∧ lag ≤ 248 := h.1.1
  have hnoise {lag : Nat} (h : PickedLag x lag) : noiseBound (signedSamples f.samples) lag = boundRuled x lag :=
    noiseBound_ruled x lag (by rw [show x.length = 512 from hlength]; have := hbound h; omega)
  have htable {lag : Nat} (h : PickedLag x lag) :
      tableAt (differenceTable (signedSamples f.samples)) lag = differenceRuled x lag :=
    tableAt_ruled x lag hlength (by have := hbound h; omega) (by have := hbound h; omega)
  refine ⟨energy_le x hlength, fun hquiet => ?quiet, fun hvoiced hnone => ?noLag, fun lag hvoiced hlag hnoisy => ?noisy,
    fun lag hvoiced hlag hclear => ?voiced⟩
  case quiet => rw [estimate_quiet (by rw [henergy]; exact hquiet), hjudged]
  case noLag =>
    have hpick : pickLag (differenceTable (signedSamples f.samples)) = none := by
      cases hp : pickLag (differenceTable (signedSamples f.samples)) with
      | none => rfl
      | some k => exact absurd ((pickLag_some x k hlength).1 hp) (hnone k)
    rw [estimate_noLag (hloud hvoiced) hpick, hjudged]
  case noisy =>
    rw [estimate_noisy (hloud hvoiced) (hpicked hlag) (by rw [hnoise hlag, htable hlag]; exact hnoisy), hjudged]
  case voiced =>
    have hrefined : (refinedLag (differenceTable (signedSamples f.samples)) lag : Int) = 16 * lag + offsetRuled x lag :=
      refinedLag_ruled x lag hlength hlag
    have hrange := offsetRuled_range x lag
    refine ⟨_, _, (estimate_voiced (hloud hvoiced) (hpicked hlag) (by rw [hnoise hlag, htable hlag]; exact Nat.not_lt.2 hclear)).trans
      (hjudged _ _ _), hrefined, ?_, pitchIndex_ruled _⟩
    have := hbound hlag
    omega

/-! ### What an estimate posting does to its channel (R116 to R121) -/

theorem exec_estimatePosting {c : Fin 4} {s : State} {f : Flight} (hup : s.busResetLow = false) (hf : s.flights[c] = some f)
    {y : Channel} {n : Nat} (hpost : s.score.channels[c].post s.clock s.melody f.estimate = (y, n)) :
    exec (.estimatePosting c) s = .next
      { s with
        flights := setAt s.flights c none
        score := { s.score with channels := setAt s.score.channels c y, gen := s.score.gen + BitVec.ofNat 32 n } } := by
  change Host.Outcome.next (postEstimate c s) = _
  simp only [postEstimate, hup, Bool.false_eq_true, if_false, postFlight, hf, scoreEstimate, bumpScore, putChannel, putFlight, hpost]

/-- R116, conditions 1 to 5: the moment a frame is judged at. -/
theorem judgedAt_eq_some {k : SongClock} {x : Channel} {e : Estimate} (hstate : e.state = .running) (hepoch : e.epoch = k.epoch)
    (hpart : x.part ≠ .off) (hframes : x.frames < 65535) (hlate : k.captureLatency + 16 ≤ e.position) :
    judgedAt k x e = some (e.position - k.captureLatency - 16) := by
  simp [judgedAt, frameTime, hstate, hepoch, hpart, hframes]
  omega

theorem judgedAt_eq_none {k : SongClock} {x : Channel} {e : Estimate}
    (h : ¬ (e.state = .running ∧ e.epoch = k.epoch ∧ x.part ≠ .off ∧ x.frames < 65535 ∧ k.captureLatency + 16 ≤ e.position)) :
    judgedAt k x e = none := by
  rw [judgedAt]
  split
  next hguard =>
    simp only [Bool.and_eq_true, decide_eq_true_eq] at hguard
    obtain ⟨⟨⟨hstate, hepoch⟩, hpart⟩, hframes⟩ := hguard
    exact if_neg fun hlate => h ⟨hstate, hepoch, hpart, hframes, hlate⟩
  next => rfl

section
variable {k : SongClock} {m : Mem} {old : Channel} {e : Estimate} {time slot : Nat}

theorem post_unjudged (h : judgedAt k { old with latest := e } e = none) : old.post k m e = ({ old with latest := e }, 0) := by
  simp only [Channel.post, h]

variable (hjudged : judgedAt k { old with latest := e } e = some time)
include hjudged

theorem post_noActive (hnone : activeSlot m old.part time = none) :
    old.post k m e = (({ old with latest := e } : Channel).closeNote k.onsetTolerance, old.openCount) := by
  simp only [Channel.post, hjudged, hnone]
  rfl

theorem post_sameSlot (hactive : activeSlot m old.part time = some slot) (hsame : ∀ o, old.openNote = some o → o.slot = slot)
    (hnote : holdsNote m slot = true) :
    old.post k m e =
      (countedRuled { old with latest := e } m slot time (frameCredit old (noteByte m slot) e), 0) := by
  have hother : ({ old with latest := e } : Channel).onOtherSlot slot = false := by
    cases ho : old.openNote with
    | none => simp [Channel.onOtherSlot]
    | some o => simp [Channel.onOtherSlot, hsame o ho]
  simp only [Channel.post, hjudged, hactive, hother, Bool.false_eq_true, if_false]
  rw [Channel.countFrame_ruled { old with latest := e } m slot time e hsame hnote]
  rfl

theorem post_otherSlot (hactive : activeSlot m old.part time = some slot) {o : OpenNote} (hopen : old.openNote = some o)
    (hdiffer : o.slot ≠ slot) (hnote : holdsNote m slot = true) :
    old.post k m e =
      (countedRuled (closedRuled k.onsetTolerance { old with latest := e } o) m slot time
        (frameCredit old (noteByte m slot) e), 1) := by
  have hother : ({ old with latest := e } : Channel).onOtherSlot slot = true := by
    simp [Channel.onOtherSlot, hopen, hdiffer]
  have hclosed : ({ old with latest := e } : Channel).closeNote k.onsetTolerance
      = closedRuled k.onsetTolerance { old with latest := e } o := Channel.closeNote_ruled _ _ _ hopen
  simp only [Channel.post, hjudged, hactive, hother, if_true, hclosed]
  rw [Channel.countFrame_ruled (closedRuled k.onsetTolerance { old with latest := e } o) m slot time e (fun _ h => nomatch h) hnote]
  simp only [Channel.openCount, hopen]
  rfl

end

/-- Settles O37: one equation of the posting for each of the four cases of a frame. -/
theorem estimatePostingCreditsScorableFrames : Obligations.EstimatePostingCreditsScorableFrames := by
  intro c s f hup hf old x time judged leaves
  obtain ⟨hposition, hstate, hepoch, hfolding⟩ := f.estimate_moment
  have htime (h : judged) : judgedAt s.clock x f.estimate = some time := by
    obtain ⟨hrunning, hsame, hpart, hframes, hlate⟩ := h
    rw [judgedAt_eq_some (x := x) (hstate.trans hrunning) (hepoch.trans hsame) hpart hframes (hposition.symm ▸ hlate), hposition]
  refine ⟨hposition, hstate, hepoch, hfolding, fun hnot => ?unjudged, fun h hquiet => ⟨fun hnone => ?_, fun o hopen => ?_⟩,
    fun h slot hactive => ⟨_, (frameCredit_ruled old (noteByte s.melody slot) f.estimate).1, (frameCredit_ruled old _ _).2,
      fun hsame => ?same, fun o hopen hdiffer => ?other⟩⟩
  case unjudged =>
    refine exec_estimatePosting hup hf (post_unjudged (judgedAt_eq_none ?_))
    rw [hstate, hepoch, hposition]
    exact hnot
  case same => exact exec_estimatePosting hup hf (post_sameSlot (htime h) (activeSlot_some _ _ _ _ h.2.2.1 hactive) hsame hactive.1.2.1)
  case other =>
    exact exec_estimatePosting hup hf
      (post_otherSlot (htime h) (activeSlot_some _ _ _ _ h.2.2.1 hactive) hopen hdiffer hactive.1.2.1)
  all_goals
    have hnoActive := activeSlot_none s.melody old.part time h.2.2.1 hquiet
    have hpost := post_noActive (m := s.melody) (htime h) hnoActive
  · rw [Channel.closeNote_none _ x hnone, Channel.openCount, hnone] at hpost
    exact exec_estimatePosting hup hf hpost
  · rw [Channel.closeNote_ruled _ x _ hopen, Channel.openCount, hopen] at hpost
    exact exec_estimatePosting hup hf hpost

end Sys2Proof.Machine
end

section
/-! Bytes laid out as fields: where a field of a view stands, and what its bytes are (section 10.2). -/

namespace Sys2Proof.Machine

/-! ### Little-endian bytes -/

@[simp] theorem leBytes_length (n v : Nat) : (leBytes n v).length = n := by
  induction n generalizing v with
  | zero => rfl
  | succ n ih => simp [leBytes, ih]

theorem zeros_eq_leBytes (n : Nat) : zeros n = leBytes n 0 := by
  induction n with
  | zero => rfl
  | succ n ih => rw [leBytes, Nat.zero_div, ← ih]; rfl

@[simp] theorem zeros_length (n : Nat) : (zeros n).length = n := List.length_replicate

theorem leValue_lt (l : List Byte) : leValue l < 256 ^ l.length := by
  induction l with
  | nil => exact Nat.one_pos
  | cons b l ih =>
    have hb : b.toNat < 256 := b.isLt
    rw [leValue, List.length_cons, Nat.pow_succ]
    omega

theorem leValue_digit (l : List Byte) (i : Nat) : leValue l / 256 ^ i % 256 = (l.getD i 0).toNat := by
  induction l generalizing i with
  | nil => simp [leValue]
  | cons b l ih =>
    have hb : b.toNat < 256 := b.isLt
    cases i with
    | zero =>
      rw [leValue, List.getD_cons_zero]
      omega
    | succ i =>
      rw [List.getD_cons_succ, ← ih i, leValue, Nat.pow_succ', ← Nat.div_div_eq_div_mul]
      congr 2
      omega

/-! ### Fields at their offsets -/

/-- Bytes that stand at a start show a field, given by its offset, its size and its value. -/
def Shows (l : List Byte) (start : Nat) (x : Nat × Nat × Nat) : Prop :=
  ∃ k, x.1 = start + k ∧ k + x.2.1 ≤ l.length ∧ (l.drop k).take x.2.1 = leBytes x.2.1 x.2.2

section
variable {l r : List Byte} {start : Nat} {x : Nat × Nat × Nat}

theorem Shows.read (h : Shows l 0 x) : (l.drop x.1).take x.2.1 = leBytes x.2.1 x.2.2 := by
  obtain ⟨k, hk, -, hread⟩ := h
  rw [hk, Nat.zero_add, hread]

theorem Shows.field (start n v : Nat) : Shows (leBytes n v) start (start, n, v) :=
  ⟨0, rfl, by simp, by simp [List.take_of_length_le]⟩

theorem Shows.left (h : Shows l start x) : Shows (l ++ r) start x := by
  obtain ⟨k, hk, hin, hread⟩ := h
  refine ⟨k, hk, by rw [List.length_append]; omega, ?_⟩
  rw [List.drop_append_of_le_length (by omega), List.take_append_of_le_length (by rw [List.length_drop]; omega), hread]

theorem Shows.right {start' : Nat} (h : Shows r start' x) (hstart : start' = start + l.length) : Shows (l ++ r) start x := by
  obtain ⟨k, hk, hin, hread⟩ := h
  refine ⟨l.length + k, by omega, by rw [List.length_append]; omega, ?_⟩
  rw [List.drop_append, List.drop_eq_nil_of_le (by omega), List.nil_append, Nat.add_sub_cancel_left, hread]

end

/-! ### Blocks of consecutive fields -/

/-- The bytes of fields given by their sizes and values, one after the other. -/
def layout : List (Nat × Nat) → List Byte
  | [] => []
  | f :: fs => leBytes f.1 f.2 ++ layout fs

/-- Consecutive fields with their offsets. -/
def located (start : Nat) : List (Nat × Nat) → List (Nat × Nat × Nat)
  | [] => []
  | f :: fs => (start, f) :: located (start + f.1) fs

theorem layout_length (fs : List (Nat × Nat)) : (layout fs).length = (fs.map Prod.fst).sum := by
  induction fs with
  | nil => rfl
  | cons f fs ih => simp [layout, ih]

theorem shows_of_mem_located {start : Nat} {fs : List (Nat × Nat)} {x : Nat × Nat × Nat} (hx : x ∈ located start fs) :
    Shows (layout fs) start x := by
  induction fs generalizing start with
  | nil => exact absurd hx (List.not_mem_nil)
  | cons f fs ih =>
    rcases List.mem_cons.1 hx with rfl | hrest
    · exact (Shows.field start f.1 f.2).left
    · exact (ih hrest).right (by rw [leBytes_length])

/-! ### Sections one after the other -/

theorem Shows.section {ls : List (List Byte)} {l : List Byte} {start start' : Nat} {x : Nat × Nat × Nat} (i : Nat)
    (hl : ls[i]? = some l) (hstart : start' = start + ((ls.take i).map List.length).sum) (h : Shows l start' x) :
    Shows ls.flatten start x := by
  induction ls generalizing start i with
  | nil => simp at hl
  | cons b ls ih =>
    rw [List.flatten_cons]
    cases i with
    | zero =>
      obtain rfl : b = l := by simpa using hl
      obtain rfl : start' = start := by simpa using hstart
      exact h.left
    | succ i =>
      refine (ih (start := start + b.length) i (by simpa using hl) ?_).right rfl
      rw [hstart, List.take_succ_cons, List.map_cons, List.sum_cons, Nat.add_assoc]

/-! ### Tables of records of one size -/

theorem length_flatMap_records {α : Type} {l : List α} {f : α → List Byte} {n : Nat} (hsize : ∀ a ∈ l, (f a).length = n) :
    (l.flatMap f).length = n * l.length := by
  induction l with
  | nil => rfl
  | cons a l ih =>
    rw [List.flatMap_cons, List.length_append, hsize a (List.mem_cons_self), ih fun b hb => hsize b (List.mem_cons_of_mem a hb),
      List.length_cons, Nat.mul_succ, Nat.add_comm]

theorem Shows.record {α : Type} {l : List α} {f : α → List Byte} {n start i : Nat} {a : α} {x : Nat × Nat × Nat}
    (hsize : ∀ a ∈ l, (f a).length = n) (ha : l[i]? = some a) (h : Shows (f a) (start + n * i) x) :
    Shows (l.flatMap f) start x := by
  induction l generalizing start i with
  | nil => simp at ha
  | cons b l ih =>
    rw [List.flatMap_cons]
    cases i with
    | zero =>
      obtain rfl : b = a := by simpa using ha
      exact Shows.left (by simpa using h)
    | succ i =>
      refine (ih (fun b hb => hsize b (List.mem_cons_of_mem _ hb)) (by simpa using ha) ?_).right rfl
      rw [hsize b List.mem_cons_self]
      convert h using 1
      rw [Nat.mul_succ, Nat.add_assoc, Nat.add_comm n]

/-- A table cut or padded with zeros to a number of records. -/
theorem padTo_records {α : Type} {f : α → List Byte} {n : Nat} (hsize : ∀ a, (f a).length = n) (k : Nat) (l : List α) :
    padTo (n * k) (l.flatMap f) = (List.range k).flatMap (fun i => (l[i]?).elim (zeros n) f) := by
  induction k generalizing l with
  | zero => rfl
  | succ k ih =>
    rw [List.range_succ_eq_map, List.flatMap_cons, List.flatMap_map, Nat.mul_succ, Nat.add_comm]
    cases l with
    | nil =>
      have hrest := ih []
      simp only [List.getElem?_nil, Option.elim_none] at hrest ⊢
      rw [← hrest]
      simp [padTo, zeros]
    | cons a l =>
      simp only [List.getElem?_cons_zero, List.getElem?_cons_succ, Option.elim_some]
      rw [← ih l, padTo, padTo, List.flatMap_cons, List.append_assoc, List.take_append, hsize,
        List.take_of_length_le (by rw [hsize]; omega), Nat.add_sub_cancel_left]
      congr 1
      rw [List.take_append, List.take_append]
      simp [zeros]
      omega

theorem shows_table {α : Type} {k n start : Nat} {v : Vector α k} {f : α → List Byte} {fields : α → List (Nat × Nat)}
    {x : Nat × Nat × Nat} (hf : ∀ a, f a = layout (fields a)) (hsize : ∀ a, ((fields a).map Prod.fst).sum = n) (i : Fin k)
    (hx : x ∈ located (start + n * i.val) (fields v[i])) : Shows (v.toList.flatMap f) start x := by
  have hlength : ∀ a ∈ v.toList, (f a).length = n := fun a _ => by rw [hf, layout_length, hsize]
  refine Shows.record hlength (i := i.val) (a := v[i]) (by simp) ?_
  rw [hf]
  exact shows_of_mem_located hx

theorem shows_range {k n start i : Nat} {f : Nat → List Byte} {fields : Nat → List (Nat × Nat)} {x : Nat × Nat × Nat}
    (hf : ∀ i, f i = layout (fields i)) (hsize : ∀ i, ((fields i).map Prod.fst).sum = n) (hi : i < k)
    (hx : x ∈ located (start + n * i) (fields i)) : Shows ((List.range k).flatMap f) start x := by
  have hlength : ∀ a ∈ List.range k, (f a).length = n := fun a _ => by rw [hf, layout_length, hsize]
  refine Shows.record hlength (i := i) (List.getElem?_range hi) ?_
  rw [hf]
  exact shows_of_mem_located hx

theorem table_length {α : Type} {k n : Nat} {v : Vector α k} {f : α → List Byte} (hsize : ∀ a, (f a).length = n) :
    (v.toList.flatMap f).length = n * k := by
  rw [length_flatMap_records fun a _ => hsize a, Vector.length_toList]

theorem range_length {k n : Nat} {f : Nat → List Byte} (hsize : ∀ i, (f i).length = n) :
    ((List.range k).flatMap f).length = n * k := by
  rw [length_flatMap_records fun i _ => hsize i, List.length_range]

end Sys2Proof.Machine
end

section
/-! The four views, field by field (sections 2.3, 10.2, 10.5). -/

namespace Sys2Proof.Machine

/-! ### Codes and single bytes -/

theorem songState_code (x : SongState) : x.code = songStateCode x := by cases x <;> rfl
theorem endOutcome_code (x : EndOutcome) : x.code = endCode x := by cases x <;> rfl
theorem cmdOutcome_code (x : CmdOutcome) : x.code = outcomeCode x := by cases x <;> rfl
theorem part_code (x : Part) : x.code = partCodeOf x := by cases x <;> rfl
theorem difficulty_code (x : Difficulty) : x.code = difficultyCode x := by cases x <;> rfl
theorem stripState_code (x : StripState) : x.code = stripStateCode x := by cases x <;> rfl
theorem roomState_code (x : RoomState) : x.code = roomCode x := by cases x <;> rfl
theorem cause_code (x : Cause) : x.code = causeCode x := by cases x <;> rfl
theorem finalFlag_code (x : FinalFlag) : x.code = flagCode x := by cases x <;> rfl
theorem handsetState_code (x : HandsetState) : x.code = handsetCode x := by cases x <;> rfl
theorem source_code (x : Source) : x.code = sourceCode x := by cases x <;> rfl
theorem replyOutcome_code (x : ReplyOutcome) : x.code = replyCode x := by cases x <;> rfl
theorem requester_code (x : Requester) : x.code = requesterCode x := by cases x <;> rfl
theorem windowFault_code (x : WindowFault) : x.code = faultCode x := by cases x <;> rfl
theorem entryState_code (x : EntryState) : x.code = codeIn [.queued, .standby, .waiting] x + 1 := by cases x <;> rfl
theorem dir_code (x : Dir) : dirCode x = flag (x = .write) := by cases x <;> rfl
theorem blockCause_code (x : BlockCause) : x.code = flag (x = .guard) := by cases x <;> rfl

theorem actionOf_code (b : Byte) : (actionOf b).code = min b.toNat 2 := by
  rw [actionOf]
  split
  next hzero => simp [hzero, Action.code]
  next hzero =>
    split
    next hone => simp [hone, Action.code]
    next hone =>
      have h0 : b.toNat ≠ 0 := fun h => hzero (BitVec.eq_of_toNat_eq h)
      have h1 : b.toNat ≠ 1 := fun h => hone (BitVec.eq_of_toNat_eq h)
      rw [Action.code]
      omega

theorem linePointer_code (m : Mem) (n : Nat) : (linePointer m n).code = min (m.read (0x150 + n)).toNat 2 := by
  rw [← actionOf_code, linePointer, actionOf]
  split
  next => rfl
  next => split <;> rfl

theorem ofNat_flag (b : Bool) : BitVec.ofNat 8 (flag (b = true)) = bitByte b := by cases b <;> rfl

theorem ofNat_toNat_byte (b : Byte) : BitVec.ofNat 8 b.toNat = b := by simp

theorem ofNat_keyCode (k : Int) : BitVec.ofNat 8 (keyCode k) = keyByte k := by
  rw [keyCode, ofNat_toNat_byte, keyByte]

/-! ### The handset view -/

def handsetLayout (r : Handset) : List (Nat × Nat) :=
  [(1, handsetCode r.state), (1, flag (r.lastSequence ≠ none)), (1, (r.lastSequence.getD 0).toNat), (1, flag (r.lowBattery = true)),
    (1, flag (r.vote = true)), (1, r.replyCount.toNat), (2, r.errors), (1, r.reply.sequence.toNat), (1, replyCode r.reply.outcome),
    (1, r.reply.tag), (1, r.reply.position), (1, r.reply.pendingCount), (3, 0)]

theorem ofNat_flag_isSome {α : Type} [DecidableEq α] (x : Option α) : BitVec.ofNat 8 (flag (x ≠ none)) = bitByte x.isSome := by
  cases x <;> simp [flag, bitByte]

theorem handset_bytes (r : Handset) : r.bytes = layout (handsetLayout r) := by
  simp only [Handset.bytes, handsetLayout, layout, zeros_eq_leBytes, leBytes, handsetState_code, replyOutcome_code, ofNat_flag,
    ofNat_flag_isSome, ofNat_toNat_byte, List.cons_append, List.nil_append, List.append_nil]

def handsetSections (x : Handsets) : List (List Byte) :=
  [layout [(4, x.gen.toNat), (4, 0)], x.records.toList.flatMap Handset.bytes]

theorem handsetView_eq (x : Handsets) : handsetView x = (handsetSections x).flatten := by
  simp only [handsetView, handsetSections, layout, zeros_eq_leBytes, List.flatten_cons, List.flatten_nil, List.append_nil, List.append_assoc]

theorem handsetView_length (x : Handsets) : (handsetView x).length = 264 := by
  have hrecords := table_length (v := x.records) (f := Handset.bytes) (n := 16) fun r => by rw [handset_bytes, layout_length]; rfl
  simp [handsetView, hrecords]

theorem handsetView_shows (x : Handsets) : ∀ f ∈ handsetFields x, Shows (handsetView x) 0 f := by
  intro f hf
  rw [handsetView_eq]
  rcases List.mem_append.1 hf with hhead | hrecord
  · exact Shows.section 0 rfl rfl (shows_of_mem_located hhead)
  · obtain ⟨h, -, hrecord⟩ := List.mem_flatMap.1 hrecord
    exact Shows.section (start' := 8) 1 rfl rfl (shows_table (n := 16) handset_bytes (fun _ => rfl) h hrecord)

/-! ### The queue view -/

/-- The layout of an entry (R178). -/
def entryLayout (tag : Nat) (r : Requester) (state : Nat) (d : Difficulty) (key : Int) (duet pin : Bool)
    (repeats song duration : Nat) : List (Nat × Nat) :=
  [(1, tag), (1, requesterCode r), (1, state), (1, difficultyCode d), (1, keyCode key),
    (1, flag (duet = true) + 2 * flag (pin = true)), (1, repeats), (1, 0), (4, song), (2, duration), (2, 0)]

theorem entryBytes_eq (tag : Nat) (r : Requester) (state : Nat) (d : Difficulty) (key : Int) (duet pin : Bool)
    (repeats song duration : Nat) : entryBytes tag r state d key duet pin repeats song duration
      = layout (entryLayout tag r state d key duet pin repeats song duration) := by
  have hflags : BitVec.ofNat 8 (flag (duet = true) + 2 * flag (pin = true)) = (if duet then 1 else 0) + (if pin then 2 else 0) := by
    cases duet <;> cases pin <;> rfl
  simp only [entryBytes, entryLayout, layout, zeros_eq_leBytes, leBytes, requester_code, difficulty_code, ofNat_keyCode, hflags,
    List.cons_append, List.nil_append, List.append_nil]

theorem entryFields_eq (at' tag : Nat) (r : Requester) (state : Nat) (d : Difficulty) (key : Int) (duet pin : Bool)
    (repeats song duration : Nat) : entryFields at' tag r state d key duet pin repeats song duration
      = located at' (entryLayout tag r state d key duet pin repeats song duration) := rfl

/-- The layout of the now-playing record, from its present flag (R178). -/
def nowPlayingLayout : Option NowPlaying → List (Nat × Nat)
  | none => [(24, 0)]
  | some n => [(1, 1), (1, sourceCode n.source), (6, 0)] ++
      entryLayout n.tag n.requester 0 n.difficulty n.key n.duet n.pin n.repeats n.song n.duration

theorem nowPlayingBytes_eq (n : Option NowPlaying) : nowPlayingBytes n = layout (nowPlayingLayout n) := by
  cases n with
  | none => simp only [nowPlayingBytes, nowPlayingLayout, layout, zeros_eq_leBytes, List.append_nil]
  | some n =>
    simp only [nowPlayingBytes, nowPlayingLayout, entryBytes_eq, source_code, List.cons_append, List.nil_append, layout, zeros_eq_leBytes,
      leBytes]
    rfl

/-- The layout of an entry's place in the queue view, empty or not. -/
def placeLayout : Option Entry → List (Nat × Nat)
  | none => [(16, 0)]
  | some e => entryLayout e.tag e.requester (codeIn [.queued, .standby, .waiting] e.state + 1) e.difficulty e.key e.duet e.pin e.repeats
      e.song e.duration

theorem placeBytes_eq (e : Option Entry) : e.elim (zeros 16) Entry.bytes = layout (placeLayout e) := by
  cases e with
  | none => simp only [Option.elim_none, placeLayout, layout, zeros_eq_leBytes, List.append_nil]
  | some e => simp only [Option.elim_some, Entry.bytes, placeLayout, entryBytes_eq, entryState_code]

theorem placeLayout_size (e : Option Entry) : ((placeLayout e).map Prod.fst).sum = 16 := by cases e <;> rfl

theorem nowPlayingLayout_size (n : Option NowPlaying) : ((nowPlayingLayout n).map Prod.fst).sum = 24 := by cases n <;> rfl

def queueSections (q : Queue) : List (List Byte) :=
  [layout [(4, q.gen.toNat), (4, q.entries.length)], layout (nowPlayingLayout q.nowPlaying),
    (List.range 48).flatMap (fun i => (q.entries[i]?).elim (zeros 16) Entry.bytes)]

theorem queueView_eq (q : Queue) : queueView q = (queueSections q).flatten := by
  have hplaces : padTo 768 (q.entries.flatMap Entry.bytes) = _ :=
    padTo_records (n := 16) (fun e => by rw [Entry.bytes, entryBytes_eq, layout_length]; rfl) 48 q.entries
  simp only [queueView, queueSections, layout, hplaces, nowPlayingBytes_eq, List.flatten_cons, List.flatten_nil, List.append_nil,
    List.append_assoc]

theorem queueView_length (q : Queue) : (queueView q).length = 800 := by
  have hplaces := range_length (k := 48) (n := 16) (f := fun i => (q.entries[i]?).elim (zeros 16) Entry.bytes) fun i => by
    rw [placeBytes_eq, layout_length, placeLayout_size]
  simp [queueView_eq, queueSections, hplaces, layout_length, nowPlayingLayout_size]

theorem queueView_shows (q : Queue) : ∀ f ∈ queueFields q, Shows (queueView q) 0 f := by
  intro f hf
  rw [queueView_eq]
  rcases List.mem_append.1 hf with hhead | hplace
  · rcases List.mem_append.1 hhead with hcounts | hplaying
    · exact Shows.section 0 rfl rfl (shows_of_mem_located hcounts)
    · refine Shows.section (start' := 8) 1 rfl rfl (shows_of_mem_located ?_)
      cases hn : q.nowPlaying with
      | none => rw [hn] at hplaying; exact hplaying
      | some n => rw [hn] at hplaying; exact hplaying
  · obtain ⟨i, hi, hplace⟩ := List.mem_flatMap.1 hplace
    have hstart : 32 = 0 + (((queueSections q).take 2).map List.length).sum := by
      simp [queueSections, layout_length, nowPlayingLayout_size]
    refine Shows.section (start' := 32) 2 rfl hstart
      (shows_range (fun i => placeBytes_eq q.entries[i]?) (fun i => placeLayout_size q.entries[i]?) (List.mem_range.1 hi) ?_)
    cases he : q.entries[i]? with
    | none => rw [he] at hplace; exact hplace
    | some e => rw [he] at hplace; exact hplace

/-! ### The score view -/

def openNoteLayout : Option OpenNote → List (Nat × Nat)
  | none => [(25, 0)]
  | some n => [(1, 1), (2, n.slot), (2, n.frames), (4, n.start), (4, n.stop), (4, n.credits), (1, flag (n.onset ≠ none)), (3, 0),
      (4, n.onset.getD 0)]

def estimateLayout (e : Estimate) : List (Nat × Nat) :=
  [(1, flag (e.voiced = true)), (1, causeCode e.cause), (1, songStateCode e.state), (1, flag (e.folding = true)), (2, e.energy),
    (2, e.lag), (1, e.pitch), (1, 0), (2, e.epoch.toNat), (4, e.position)]

def channelLayout (c : Channel) : List (Nat × Nat) :=
  [(1, partCodeOf c.part), (1, difficultyCode c.difficulty), (1, keyCode c.key)] ++ openNoteLayout c.openNote ++
  [(2, c.frames), (2, 0), (4, c.credits), (2, c.notesClosed), (2, c.notesHit), (2, c.onsetsCounted), (2, c.onsetsHit), (2, c.running),
    (2, 0)] ++ estimateLayout c.latest

theorem openNoteBytes_eq (o : Option OpenNote) : openNoteBytes o = layout (openNoteLayout o) := by
  cases o with
  | none => simp only [openNoteBytes, openNoteLayout, layout, zeros_eq_leBytes, List.append_nil]
  | some n =>
    simp only [openNoteBytes, openNoteLayout, layout, zeros_eq_leBytes, leBytes, ofNat_flag_isSome, List.cons_append, List.nil_append,
      List.append_nil]
    rfl

theorem estimate_bytes (e : Estimate) : e.bytes = layout (estimateLayout e) := by
  simp only [Estimate.bytes, estimateLayout, layout, zeros_eq_leBytes, leBytes, cause_code, songState_code, ofNat_flag,
    List.cons_append, List.nil_append, List.append_nil]

theorem layout_append (a b : List (Nat × Nat)) : layout (a ++ b) = layout a ++ layout b := by
  induction a with
  | nil => rfl
  | cons f a ih => rw [List.cons_append, layout, layout, ih, List.append_assoc]

theorem channel_bytes (c : Channel) : c.bytes = layout (channelLayout c) := by
  simp only [Channel.bytes, channelLayout, layout_append, layout, openNoteBytes_eq, estimate_bytes, zeros_eq_leBytes, leBytes,
    part_code, difficulty_code, ofNat_keyCode, List.cons_append, List.nil_append, List.append_assoc]

theorem channelLayout_size (c : Channel) : ((channelLayout c).map Prod.fst).sum = 64 := by
  rw [channelLayout]
  cases c.openNote <;> simp [openNoteLayout, estimateLayout]

theorem channelFields_eq (i : Nat) (c : Channel) : channelFields i c = located (8 + 64 * i) (channelLayout c) := by
  simp only [channelFields, channelLayout, estimateLayout]
  generalize 8 + 64 * i = a
  cases c.openNote <;>
    simp only [openNoteLayout, located, Nat.add_assoc, Nat.reduceAdd, List.cons_append, List.nil_append]

def resultLayout (r : LastResult) : List (Nat × Nat) :=
  [(1, flag (r.valid = true)), (1, sourceCode r.source), (1, endCode r.outcome), (1, leadCode r.lead), (1, requesterCode r.requester),
    (3, 0), (4, r.song)]

def boardLayout (b : BoardEntry) : List (Nat × Nat) := [(2, b.completed), (2, b.last), (2, b.best), (2, 0)]

theorem boardEntry_bytes (b : BoardEntry) : b.bytes = layout (boardLayout b) := by
  simp only [BoardEntry.bytes, boardLayout, layout, zeros_eq_leBytes, List.append_nil, List.append_assoc]

def scoreSections (x : Score) : List (List Byte) :=
  [layout [(4, x.gen.toNat), (4, 0)], x.channels.toList.flatMap Channel.bytes, layout (resultLayout x.result),
    x.result.finals.toList.flatMap (fun f => leBytes 2 f.score), x.result.finals.toList.flatMap (fun f => leBytes 1 f.flag.code),
    layout [(8, 0)], x.board.toList.flatMap BoardEntry.bytes]

theorem scoreView_eq (x : Score) : scoreView x = (scoreSections x).flatten := by
  simp only [scoreView, scoreSections, LastResult.bytes, resultLayout, layout, zeros_eq_leBytes, leBytes, source_code,
    endOutcome_code, requester_code, ofNat_flag, List.flatten_cons, List.flatten_nil, List.cons_append, List.nil_append,
    List.append_nil, List.append_assoc]

theorem scoreSections_lengths (x : Score) : (scoreSections x).map List.length = [8, 256, 12, 8, 4, 8, 128] := by
  have hchannels := table_length (v := x.channels) (f := Channel.bytes) (n := 64) fun c => by
    rw [channel_bytes, layout_length, channelLayout_size]
  have hscores := table_length (v := x.result.finals) (f := fun f => leBytes 2 f.score) fun f => leBytes_length _ _
  have hflags := table_length (v := x.result.finals) (f := fun f => leBytes 1 f.flag.code) fun f => leBytes_length _ _
  have hboard := table_length (v := x.board) (f := BoardEntry.bytes) (n := 8) fun b => by rw [boardEntry_bytes, layout_length]; rfl
  simp only [scoreSections, List.map_cons, List.map_nil, hchannels, hscores, hflags, hboard]
  rfl

theorem scoreView_length (x : Score) : (scoreView x).length = 424 := by
  rw [scoreView_eq, List.length_flatten, scoreSections_lengths]
  rfl

theorem scoreView_section {x : Score} {l : List Byte} {f : Nat × Nat × Nat} (i start : Nat) (hl : (scoreSections x)[i]? = some l)
    (hstart : start = (([8, 256, 12, 8, 4, 8, 128] : List Nat).take i).sum) (h : Shows l start f) : Shows (scoreView x) 0 f := by
  rw [scoreView_eq]
  refine Shows.section i hl ?_ h
  rw [List.map_take, scoreSections_lengths, Nat.zero_add, hstart]

theorem scoreFields_eq (x : Score) : scoreFields x =
    located 0 [(4, x.gen.toNat), (4, 0)] ++ (located 0x108 (resultLayout x.result) ++ located 0x120 [(8, 0)]) ++
    (List.finRange 4).flatMap (fun c => located (8 + 64 * c.val) (channelLayout x.channels[c]) ++
      [(0x114 + 2 * c.val, 2, (x.result.finals[c]).score), (0x11C + c.val, 1, flagCode (x.result.finals[c]).flag)]) ++
    (List.finRange 16).flatMap (fun h => located (0x128 + 8 * h.val) (boardLayout x.board[h])) := by
  have hlead : leadCode x.result.lead = match x.result.lead with
      | some c => c.val
      | none => 0xFF := by
    cases x.result.lead <;> rfl
  simp only [scoreFields, channelFields_eq, resultLayout, hlead]
  rfl

theorem scoreView_shows (x : Score) : ∀ f ∈ scoreFields x, Shows (scoreView x) 0 f := by
  intro f hf
  rw [scoreFields_eq] at hf
  rcases List.mem_append.1 hf with hfront | hboard
  · rcases List.mem_append.1 hfront with hfixed | hchannel
    · rcases List.mem_append.1 hfixed with hhead | hresult
      · exact scoreView_section 0 0 rfl rfl (shows_of_mem_located hhead)
      · rcases List.mem_append.1 hresult with hrecord | hreserved
        · exact scoreView_section 2 0x108 rfl rfl (shows_of_mem_located hrecord)
        · exact scoreView_section 5 0x120 rfl rfl (shows_of_mem_located hreserved)
    · obtain ⟨c, -, hchannel⟩ := List.mem_flatMap.1 hchannel
      rcases List.mem_append.1 hchannel with hrecord | hfinal
      · exact scoreView_section 1 8 rfl rfl (shows_table (n := 64) channel_bytes channelLayout_size c hrecord)
      · rcases List.mem_cons.1 hfinal with rfl | hflag
        · exact scoreView_section 3 0x114 rfl rfl
            (shows_table (n := 2) (fields := fun f => [(2, f.score)]) (fun f => (List.append_nil _).symm) (fun _ => rfl) c
              List.mem_cons_self)
        · obtain rfl := List.mem_singleton.1 hflag
          refine scoreView_section 4 0x11C rfl rfl
            (shows_table (n := 1) (fields := fun f => [(1, flagCode f.flag)])
              (fun f => by rw [layout, layout, List.append_nil, finalFlag_code]) (fun _ => rfl) c ?_)
          rw [Nat.one_mul]
          exact List.mem_cons_self
  · obtain ⟨h, -, hboard⟩ := List.mem_flatMap.1 hboard
    exact scoreView_section 6 0x128 rfl rfl (shows_table (n := 8) boardEntry_bytes (fun _ => rfl) h hboard)

end Sys2Proof.Machine
end

section
/-! The status view with its effective globals (sections 1.3, 2.3, 10.2, 10.5), and what a view beat answers. -/

namespace Sys2Proof.Machine

/-! ### Effective globals (R15) -/

section
variable (m : Mem) (p : Nat)

theorem field_one : m.field p 1 = (m.read p).toNat := by simp [Mem.field]

theorem field_word16 : m.field p 2 = word16 m p := by simp [Mem.field, word16]

theorem field_word24 : m.field p 3 = word24 m p := by
  simp only [Mem.field, word24, word16, Nat.add_assoc, Nat.reduceAdd]
  omega

end

theorem defaulted_eq (v dflt lo hi : Nat) : defaulted v dflt lo hi = rangedField v dflt lo hi := by
  rw [defaulted, rangedField, clampNat, Nat.min_comm]

theorem biased_eq (v dflt hi : Nat) : biased v dflt hi = biasedField v dflt hi := rfl

theorem strideOf_eq (v width : Nat) : strideOf v width =
    if v = 0 then 8 * ((4 * width + 7) / 8) else max (max 256 (8 * ((4 * width + 7) / 8))) (min (v / 8 * 8) 16384) := by
  rw [strideOf, clampNat, leastStride, ceilDiv, Nat.min_comm]

theorem nearestRate_eq (v : Nat) :
    nearestRate v = if v = 0 then 48000 else if v < 38050 then 32000 else if v < 46050 then 44100 else 48000 := by
  have hlow : v * 2 < 32000 + 44100 ↔ v < 38050 := by omega
  have hhigh : v * 2 < 44100 + 48000 ↔ v < 46050 := by omega
  simp only [nearestRate, hlow, hhigh]

theorem word16_lt (m : Mem) (p : Nat) : word16 m p < 2 ^ 16 := by
  have h0 : (m.read p).toNat < 256 := (m.read p).isLt
  have h1 : (m.read (p + 1)).toNat < 256 := (m.read (p + 1)).isLt
  rw [word16]
  omega

theorem enableSet_getLsbD (m : Mem) {n : Nat} (hn : n < 16) : (enableSet m).getLsbD n = !(word16 m 0x14A).testBit n := by
  simp only [enableSet, field_word16, BitVec.getLsbD_not, BitVec.getLsbD_ofNat, hn, decide_true, Bool.true_and]

theorem defaultAction_iff (m : Mem) :
    (defaultAction m = .allow ↔ m.read 0x149 = 0) ∧ (defaultAction m = .deny ↔ m.read 0x149 = 1) := by
  rw [defaultAction, actionOf]
  split
  next hzero => simp [hzero]
  next hzero => split <;> simp_all

theorem linePointer_iff (m : Mem) (n : Nat) :
    (linePointer m n = .none ↔ m.read (0x150 + n) = 0) ∧ (linePointer m n = .attn0 ↔ m.read (0x150 + n) = 1) := by
  rw [linePointer]
  split
  next hzero => simp [hzero]
  next hzero => split <;> simp_all

theorem globalsAsRuled (m : Mem) : GlobalsAsRuled m := by
  refine ⟨?_, by simp [lockSet], ?_, ?_, ?_, ?_, ?_, ?_, rfl, rfl, rfl, rfl, fun c _ => ?markers, ?_, ?_, ?_, ?_, ?_, ?_, ?_, ?_, ?_, ?_,
    by simp [foldingOn], ?_, ?_, ?_, ?_, (defaultAction_iff m).1, (defaultAction_iff m).2, fun n => enableSet_getLsbD m,
    fun n _ => linePointer_iff m n⟩
  case markers =>
    have hgreen : 0x121 + 4 * c = 0x120 + 4 * c + 1 := by omega
    have hred : 0x122 + 4 * c = 0x120 + 4 * c + 2 := by omega
    rw [markerColour, colourAt, hgreen, hred]
  all_goals simp only [memoryTop, frameWidth, strideG, bandTop, lineHeight, guideHeight, guideTop, scrollDuration, lineLead, guideSpan,
    playbackRate, outputLatency, stallTimeoutG, captureLatencyG, voicingThreshold, onsetToleranceG, encoreThreshold, encoreSteps,
    handsetQuota, standbyPercent, presenceMinutes, defaulted_eq, biased_eq, strideOf_eq, nearestRate_eq, field_one, field_word16]

/-! ### What a view beat answers -/

theorem viewBeat_beyond {u p : Nat} {s : State} (h : (viewBytes u s).length ≤ p) : viewBeat u p s = 0 := by
  rw [viewBeat, List.drop_eq_nil_of_le h]
  rfl

theorem viewBeat_byte (u p : Nat) (s : State) {i : Nat} (hi : i < 8) :
    (viewBeat u p s).extractLsb' (8 * i) 8 = (viewBytes u s).getD (p + i) 0 := by
  have hlt : leValue (((viewBytes u s).drop p).take 8) < 2 ^ 64 := calc
    _ < 256 ^ (((viewBytes u s).drop p).take 8).length := leValue_lt _
    _ ≤ 256 ^ 8 := Nat.pow_le_pow_right (by norm_num) (List.length_take_le _ _)
    _ = 2 ^ 64 := by norm_num
  have hpow : 2 ^ (8 * i) = 256 ^ i := Nat.pow_mul 2 8 i
  have hget : (((viewBytes u s).drop p).take 8).getD i 0 = (viewBytes u s).getD (p + i) 0 := by
    simp [List.getD_eq_getElem?_getD, hi]
  apply BitVec.eq_of_toNat_eq
  rw [viewBeat, BitVec.extractLsb'_toNat, BitVec.toNat_ofNat, Nat.mod_eq_of_lt hlt, Nat.shiftRight_eq_div_pow, hpow, ← hget]
  exact leValue_digit _ i

/-! ### The status view -/

/-- The status view's fields of generation, events, lines and song, 000h to 01Fh (R177). -/
def playLayout (s : State) : List (Nat × Nat) :=
  [(4, s.statusGen.toNat), (2, s.events.toNat), (2, s.enables.toNat), (1, s.highestPending),
    (1, flag (s.attn0 = true) + 2 * flag (s.attn1 = true)), (6, 0), (1, songStateCode s.clock.state), (1, endCode s.clock.endOutcome),
    (2, 0), (4, s.clock.position), (4, s.clock.song), (4, s.clock.duration)]

/-- The windows and the last-blocked record, 020h to 02Fh. -/
def windowLayout (a : Anchor) (b : BlockedRecord) : List (Nat × Nat) :=
  [(2, a.live.toNat), (1, flag (a.bytes.read 0x102 ≠ 0)), (1, faultCode a.lastFault), (1, flag (b.valid = true)),
    (1, flag (b.dir = .write)), (1, flag (b.cause = .guard)), (1, b.tag.val), (4, b.addr.toNat), (4, 0)]

/-- The last-command record, 030h to 03Fh. -/
def commandLayout (l : LastCommand) : List (Nat × Nat) :=
  [(1, flag (l.valid = true)), (1, l.hostTag.toNat), (1, l.code.toNat), (1, outcomeCode l.outcome), (1, l.entry.val), (3, 0),
    (4, l.offset.toNat), (4, 0)]

/-- The room and the garbled count, 040h to 04Fh. -/
def roomLayout (s : State) : List (Nat × Nat) :=
  [(1, roomCode s.room.state), (3, 0), (4, s.room.remaining), (2, s.parser.garbled), (6, 0)]

def statusLayout (s : State) : List (Nat × Nat) :=
  playLayout s ++ windowLayout s.anchor s.blocked ++ commandLayout s.intake.last ++ roomLayout s

/-- The line number of the buffer at a place of the chain, 0 beyond its end. -/
def chainNumber (y : Lyrics) (j : Nat) : Nat :=
  match y.chain[j]? with
  | some b => stripLine y b
  | none => 0

/-- The chain's fields, 068h to 07Fh. -/
def chainLayout (y : Lyrics) : List (Nat × Nat) :=
  [(1, y.chain.length), (1, flag (y.scroll ≠ none)), (2, y.nextLine), (2, chainNumber y 0), (2, chainNumber y 1), (2, chainNumber y 2),
    (14, 0)]

def colourLayout (c : Colour) : List (Nat × Nat) := [(1, c.blue.toNat), (1, c.green.toNat), (1, c.red.toNat), (1, 0)]

/-- The effective globals before the colours, 080h to 08Fh. -/
def geometryLayout (m : Mem) : List (Nat × Nat) :=
  [(2, memoryTop m), (1, flag (m.read 0x102 ≠ 0)), (1, 0), (2, frameWidth m), (2, strideG m), (2, bandTop m), (1, lineHeight m),
    (1, guideHeight m), (2, guideTop m), (2, 0)]

/-- The colours of syllables, 090h to 09Fh. -/
def syllableColoursLayout (m : Mem) : List (Nat × Nat) :=
  colourLayout (colourUnsung m) ++ colourLayout (sungColours m).a ++ colourLayout (sungColours m).b ++ colourLayout (sungColours m).both

/-- The effective globals after the colours, 0B0h to 0CFh. -/
def timingLayout (m : Mem) : List (Nat × Nat) :=
  [(2, scrollDuration m), (2, lineLead m), (2, guideSpan m), (2, playbackRate m), (2, outputLatency m), (2, stallTimeoutG m),
    (2, captureLatencyG m), (2, voicingThreshold m), (2, onsetToleranceG m), (2, encoreThreshold m), (1, flag (m.read 0x144 ≠ 0)),
    (1, encoreSteps m), (1, handsetQuota m), (1, standbyPercent m), (1, presenceMinutes m), (1, min (m.read 0x149).toNat 2),
    (2, word16 m 0x14A), (4, 0)]

def filterLayout (m : Mem) (f : Nat) : List (Nat × Nat) :=
  let a := 0x180 + 16 * f
  [(3, word24 m a % 2 ^ 20), (1, 0), (3, word24 m (a + 4) % 2 ^ 20), (1, 0), (2, word16 m (a + 8)), (1, min (m.read (a + 10)).toNat 2),
    (1, flag (m.read (a + 11) ≠ 0)), (4, 0)]

def statusSections (s : State) : List (List Byte) :=
  let y := s.lyrics
  let m := s.anchor.bytes
  [layout (statusLayout s), s.framers.toList.flatMap (fun f => leBytes 2 f.gaps),
    y.strips.toList.flatMap (fun b => leBytes 1 b.state.code), layout [(4, 0)],
    y.strips.toList.flatMap (fun b => leBytes 2 b.shownNumber), layout (chainLayout y), layout (geometryLayout m),
    layout (syllableColoursLayout m), (List.range 4).flatMap (fun c => (markerColour m c).bytes), layout (timingLayout m),
    (List.range 16).flatMap (fun n => leBytes 1 (linePointer m n).code), layout [(32, 0)],
    (List.range 8).flatMap (fun f => (filterAt m f).bytes)]

theorem ofNat_flag_prop (p : Prop) [Decidable p] : BitVec.ofNat 8 (flag p) = bitByte (decide p) := by
  by_cases h : p <;> simp [flag, bitByte, h]

theorem byte_eq_field (b : Byte) : [b] = leBytes 1 b.toNat := by simp [leBytes]

theorem bit_eq_field (p : Prop) [Decidable p] : [bitByte (decide p)] = leBytes 1 (flag p) := by
  rw [← ofNat_flag_prop]
  rfl

theorem bitByte_eq_field (b : Bool) : [bitByte b] = leBytes 1 (flag (b = true)) := by cases b <;> rfl

theorem colour_bytes (c : Colour) : c.bytes = layout (colourLayout c) := by
  simp only [Colour.bytes, colourLayout, layout, leBytes, ofNat_toNat_byte, List.cons_append, List.nil_append]
  rfl

theorem lineNumber_eq (y : Lyrics) (b : Fin 4) : y.strips[b].lineNumber = stripLine y b := field_word16 _ 0

theorem filter_bytes (m : Mem) (f : Nat) : (filterAt m f).bytes = layout (filterLayout m f) := by
  have hset (a : Nat) : (BitVec.ofNat 16 (word16 m a)).toNat = word16 m a := by
    rw [BitVec.toNat_ofNat, Nat.mod_eq_of_lt (word16_lt m a)]
  simp only [filterAt, Filter.bytes, filterLayout, layout, setBytes, field_word16, field_word24, hset, actionOf_code, zeros_eq_leBytes,
    ← ofNat_flag_prop, leBytes, List.cons_append, List.nil_append, List.append_nil]

theorem chainBytes_eq (y : Lyrics) : padTo 6 (y.chain.flatMap (fun b => leBytes 2 y.strips[b].lineNumber))
    = layout [(2, chainNumber y 0), (2, chainNumber y 1), (2, chainNumber y 2)] := by
  have hplace (j : Nat) : (y.chain[j]?).elim (zeros 2) (fun b => leBytes 2 y.strips[b].lineNumber) = leBytes 2 (chainNumber y j) := by
    rw [chainNumber]
    cases y.chain[j]? with
    | none => exact zeros_eq_leBytes 2
    | some b => rw [Option.elim_some, lineNumber_eq]
  rw [padTo_records (n := 2) (fun b => leBytes_length _ _) 3 y.chain]
  simp only [hplace]
  rfl

theorem setBytes_disabled (m : Mem) : setBytes (~~~ enableSet m) = leBytes 2 (word16 m 0x14A) := by
  rw [setBytes, enableSet, BitVec.not_not, field_word16, BitVec.toNat_ofNat, Nat.mod_eq_of_lt (word16_lt m 0x14A)]

theorem attn_flags (a b : Bool) : (if a then 1 else 0) + (if b then 2 else 0) = flag (a = true) + 2 * flag (b = true) := by
  cases a <;> cases b <;> rfl

theorem flag_lockSet (m : Mem) : flag (lockSet m = true) = flag (m.read 0x102 ≠ 0) := by simp [flag, lockSet]

/-- The bytes below 050h. -/
theorem statusHead_eq (s : State) :
    eventBytes s ++ songBytes s.clock ++ windowBytes s.anchor s.blocked ++ commandBytes s.intake.last ++
      (leBytes 1 s.room.state.code ++ zeros 3 ++ leBytes 4 s.room.remaining ++ leBytes 2 s.parser.garbled ++ zeros 6)
      = layout (statusLayout s) := by
  have hcommand : [bitByte s.intake.last.valid, s.intake.last.hostTag, s.intake.last.code] =
      leBytes 1 (flag (s.intake.last.valid = true)) ++ leBytes 1 s.intake.last.hostTag.toNat ++ leBytes 1 s.intake.last.code.toNat := by
    rw [← bitByte_eq_field, ← byte_eq_field, ← byte_eq_field]
    rfl
  simp only [eventBytes, songBytes, windowBytes, commandBytes, setBytes, statusLayout, playLayout, windowLayout, commandLayout,
    roomLayout, layout_append, layout, zeros_eq_leBytes, songState_code, endOutcome_code, windowFault_code, dir_code, blockCause_code,
    cmdOutcome_code, roomState_code, attn_flags, hcommand, bitByte_eq_field, flag_lockSet, List.append_nil, List.append_assoc]

theorem globalBytes_eq (m : Mem) : globalBytes m =
    layout (geometryLayout m) ++ (layout (syllableColoursLayout m) ++ ((List.range 4).flatMap (fun c => (markerColour m c).bytes) ++
      (layout (timingLayout m) ++ ((List.range 16).flatMap (fun n => leBytes 1 (linePointer m n).code) ++ layout [(32, 0)])))) := by
  have hfolding : bitByte (!foldingOn m) = bitByte (decide (m.read 0x144 ≠ 0)) := by simp [foldingOn]
  have hdefault : (defaultAction m).code = min (m.read 0x149).toNat 2 := actionOf_code _
  have hlock : ([bitByte (lockSet m), 0] : List Byte) = leBytes 1 (flag (m.read 0x102 ≠ 0)) ++ leBytes 1 0 := by
    rw [← flag_lockSet, ← bitByte_eq_field]
    rfl
  unfold globalBytes
  simp only [geometryLayout, syllableColoursLayout, timingLayout, layout_append, layout, colour_bytes, zeros_eq_leBytes,
    hfolding, hdefault, hlock, bit_eq_field, setBytes_disabled, List.append_nil, List.append_assoc]

theorem stripBytes_eq (y : Lyrics) : stripBytes y =
    y.strips.toList.flatMap (fun b => leBytes 1 b.state.code) ++ (layout [(4, 0)] ++
      (y.strips.toList.flatMap (fun b => leBytes 2 b.shownNumber) ++ layout (chainLayout y))) := by
  have hscroll : [bitByte y.scroll.isSome] = leBytes 1 (flag (y.scroll ≠ none)) := by
    cases y.scroll <;> rfl
  simp only [stripBytes, chainLayout, chainBytes_eq, layout, zeros_eq_leBytes, hscroll, List.append_nil, List.append_assoc]

theorem statusView_eq (s : State) : statusView s = (statusSections s).flatten := by
  have hhead := statusHead_eq s
  simp only [statusView, countBytes, statusSections, List.flatten_cons, List.flatten_nil, ← hhead, stripBytes_eq, globalBytes_eq,
    List.append_nil, List.append_assoc]

def statusSizes : List Nat := [80, 8, 4, 4, 8, 24, 16, 16, 16, 32, 16, 32, 128]

theorem statusSections_lengths (s : State) : (statusSections s).map List.length = statusSizes := by
  have hgaps := table_length (v := s.framers) (f := fun f => leBytes 2 f.gaps) fun f => leBytes_length _ _
  have hstates := table_length (v := s.lyrics.strips) (f := fun b => leBytes 1 b.state.code) fun b => leBytes_length _ _
  have hnumbers := table_length (v := s.lyrics.strips) (f := fun b => leBytes 2 b.shownNumber) fun b => leBytes_length _ _
  have hmarkers := range_length (k := 4) (f := fun c => (markerColour s.anchor.bytes c).bytes) (n := 4) fun c => by
    rw [colour_bytes, layout_length]; rfl
  have hpointers := range_length (k := 16) (f := fun n => leBytes 1 (linePointer s.anchor.bytes n).code) fun n => leBytes_length _ _
  have hfilters := range_length (k := 8) (f := fun f => (filterAt s.anchor.bytes f).bytes) (n := 16) fun f => by
    rw [filter_bytes, layout_length]; rfl
  simp only [statusSections, List.map_cons, List.map_nil, hgaps, hstates, hnumbers, hmarkers, hpointers, hfilters, layout_length]
  simp [statusLayout, playLayout, windowLayout, commandLayout, roomLayout, chainLayout, geometryLayout, syllableColoursLayout,
    colourLayout, timingLayout, statusSizes]

theorem statusView_length (s : State) : (statusView s).length = 384 := by
  rw [statusView_eq, List.length_flatten, statusSections_lengths]
  rfl

theorem statusView_section {s : State} {l : List Byte} {f : Nat × Nat × Nat} (i start : Nat) (hl : (statusSections s)[i]? = some l)
    (hstart : start = (statusSizes.take i).sum) (h : Shows l start f) : Shows (statusView s) 0 f := by
  rw [statusView_eq]
  refine Shows.section i hl ?_ h
  rw [List.map_take, statusSections_lengths, Nat.zero_add, hstart]

theorem statusFields_eq (s : State) : statusFields s =
    located 0 (statusLayout s) ++ (0x05C, 4, 0) :: located 0x068 (chainLayout s.lyrics) ++
    (List.finRange 4).flatMap (fun c =>
      [(0x050 + 2 * c.val, 2, (s.framers[c]).gaps), (0x058 + c.val, 1, stripStateCode (s.lyrics.strips[c]).state),
        (0x060 + 2 * c.val, 2, if (s.lyrics.strips[c]).state = .free then 0 else stripLine s.lyrics c)]) := by
  simp only [statusFields, statusLayout, playLayout, windowLayout, commandLayout, roomLayout, chainLayout, located, Nat.reduceAdd,
    List.cons_append, List.nil_append]
  rfl

theorem statusView_shows (s : State) : ∀ f ∈ statusFields s, Shows (statusView s) 0 f := by
  intro f hf
  rw [statusFields_eq] at hf
  rcases List.mem_append.1 hf with hfixed | htables
  · rcases List.mem_append.1 hfixed with hhead | hchain
    · exact statusView_section 0 0 rfl rfl (shows_of_mem_located hhead)
    · rcases List.mem_cons.1 hchain with rfl | hchain
      · exact statusView_section 3 0x05C rfl rfl (shows_of_mem_located List.mem_cons_self)
      · exact statusView_section 5 0x068 rfl rfl (shows_of_mem_located hchain)
  · obtain ⟨c, -, hc⟩ := List.mem_flatMap.1 htables
    simp only [List.mem_cons, List.not_mem_nil, or_false] at hc
    obtain rfl | rfl | rfl := hc
    · exact statusView_section 1 0x050 rfl rfl
        (shows_table (n := 2) (fields := fun f => [(2, f.gaps)]) (fun f => (List.append_nil _).symm) (fun _ => rfl) c List.mem_cons_self)
    · refine statusView_section 2 0x058 rfl rfl
        (shows_table (n := 1) (fields := fun b => [(1, stripStateCode b.state)])
          (fun b => by rw [layout, layout, List.append_nil, stripState_code]) (fun _ => rfl) c ?_)
      rw [Nat.one_mul]
      exact List.mem_cons_self
    · rw [← lineNumber_eq]
      exact statusView_section 4 0x060 rfl rfl
        (shows_table (n := 2) (fields := fun b => [(2, b.shownNumber)]) (fun b => (List.append_nil _).symm) (fun _ => rfl) c
          List.mem_cons_self)

theorem globalFields_eq (m : Mem) : globalFields m =
    located 0x080 (geometryLayout m) ++ (located 0x0B0 (timingLayout m) ++ ((0x0E0, 32, 0) :: located 0x090 (syllableColoursLayout m) ++
      ((List.range 4).flatMap (fun c => located (0x0A0 + 4 * c) (colourLayout (markerColour m c))) ++
        ((List.range 16).map (fun n => (0x0D0 + n, 1, min (m.read (0x150 + n)).toNat 2)) ++
          (List.range 8).flatMap (fun f => located (0x100 + 16 * f) (filterLayout m f)))))) := by
  unfold globalFields
  simp only [geometryLayout, timingLayout, syllableColoursLayout, colourLayout, filterLayout, colourFields, located, Nat.reduceAdd,
    Nat.add_assoc, List.cons_append, List.nil_append, List.append_assoc]

theorem globals_shows (s : State) : ∀ f ∈ globalFields s.anchor.bytes, Shows (statusView s) 0 f := by
  intro f hf
  rw [globalFields_eq] at hf
  rcases List.mem_append.1 hf with hgeometry | hf
  · exact statusView_section 6 0x080 rfl rfl (shows_of_mem_located hgeometry)
  rcases List.mem_append.1 hf with htiming | hf
  · exact statusView_section 9 0x0B0 rfl rfl (shows_of_mem_located htiming)
  rcases List.mem_append.1 hf with hcolours | hf
  · rcases List.mem_cons.1 hcolours with rfl | hcolours
    · exact statusView_section 11 0x0E0 rfl rfl (shows_of_mem_located List.mem_cons_self)
    · exact statusView_section 7 0x090 rfl rfl (shows_of_mem_located hcolours)
  rcases List.mem_append.1 hf with hmarker | hf
  · obtain ⟨c, hc, hmarker⟩ := List.mem_flatMap.1 hmarker
    exact statusView_section 8 0x0A0 rfl rfl
      (shows_range (n := 4) (fun c => colour_bytes (markerColour s.anchor.bytes c)) (fun _ => rfl) (List.mem_range.1 hc) hmarker)
  rcases List.mem_append.1 hf with hpointer | hfilter
  · obtain ⟨n, hn, rfl⟩ := List.mem_map.1 hpointer
    refine statusView_section 10 0x0D0 rfl rfl
      (shows_range (n := 1) (fields := fun n => [(1, min (s.anchor.bytes.read (0x150 + n)).toNat 2)])
        (fun n => by rw [layout, layout, List.append_nil, linePointer_code]) (fun _ => rfl) (List.mem_range.1 hn) ?_)
    rw [Nat.one_mul]
    exact List.mem_cons_self
  · obtain ⟨i, hi, hfilter⟩ := List.mem_flatMap.1 hfilter
    exact statusView_section 12 0x100 rfl rfl
      (shows_range (n := 16) (filter_bytes s.anchor.bytes) (fun _ => rfl) (List.mem_range.1 hi) hfilter)

/-- Settles O26: each view is a list of sections, and a section a list of sized fields or a table of records. -/
theorem viewsHaveTheirLengths : Obligations.ViewsHaveTheirLengths := fun s =>
  ⟨statusView_length s, queueView_length s.queue, scoreView_length s.score, handsetView_length s.handsets,
    fun _ _ => viewBeat_beyond, fun u p _ => viewBeat_byte u p s, fun f hf => (statusView_shows s f hf).read,
    fun f hf => (globals_shows s f hf).read, globalsAsRuled s.anchor.bytes, fun f hf => (queueView_shows s.queue f hf).read,
    fun f hf => (scoreView_shows s.score f hf).read, fun f hf => (handsetView_shows s.handsets f hf).read⟩

end Sys2Proof.Machine
end
